-- ==== Sys2Proof/Word.lean ====
section
/-!
DEFINITION. The three unsigned widths of the block (spec/00_scope.md rule R6): no value in it is signed.
Byte helpers a repair might want to mend (low and high byte, assembling a u16) stand in Machine/Operands.lean.
-/
namespace Sys2Proof

/-- A u8: a byte on the wire, a checksum, a register number. Rule R6. -/
abbrev Byte := BitVec 8

/-- A u16: a length, a topic_id, a byte index, a tick count. Rules R5, R6, R9. -/
abbrev Half := BitVec 16

/-- A u32: a command word, a register value, a diagnostic counter. Rules R4, R6, R9. -/
abbrev Word := BitVec 32

end Sys2Proof
end

