-- ==== Sys2Proof/Syntax.lean ====
section
/-!
DEFINITION. The five commands of spec/30_encoding.md rule R49 (one constructor per row of spec/opcode_table.json)
and the transaction that carries one (rule R48).
-/
namespace Sys2Proof

/-- A command of the block (rule R49), with its operands as rule R50 lays them out. -/
inductive Instr where
  /-- `FEED b`: one byte for the frame decoder. Rule R65. -/
  | feed (b : Byte)
  /-- `TICK`: one tick period has passed. Rule R84. -/
  | tick
  /-- `RESET`: back to the reset state. Rule R86. -/
  | reset
  /-- `RDREG r`: read a register. Rule R87. `r` is the raw register number: 0x0A..0xFF are reserved (rule R21). -/
  | rdreg (r : Byte)
  /-- `ENCODE t, p`: build the frame of topic_id `t` and payload `p`. Rule R80. -/
  | encode (t : Half) (p : List Byte)
  deriving DecidableEq, Repr

/-- A transaction on the command port: one 32-bit command word and the payload vector beside it, whose length is a
property of the transaction and may be anything from 0 up. An empty vector counts as none. Rules R4, R48, R51. -/
structure Command where
  word   : Word
  vector : List Byte
  deriving DecidableEq, Repr

end Sys2Proof
end

