-- ==== Sys2Proof/WellFormed.lean ====
section
/-!
DEFINITION. Which instructions are well formed, and which raw transactions are illegal: spec/30_encoding.md rule R51,
item by item. The items are written with division and remainder on the word's number, apart from the decoder's own
bit-field reads, so that "the decoder refuses exactly the illegal commands" says something.
-/
namespace Sys2Proof

/-- `r` is a register number of the map of spec/10_state.md rule R21: 0x00..0x09. -/
def Instr.listedRegister (r : Byte) : Bool := decide (r.toNat ≤ 9)

/-- A well-formed instruction. The one check is RDREG's: its register number must be listed (rules R21, R51 item 4).
ENCODE has none: a payload longer than MAX_PAYLOAD is a legal transaction (rule R48). -/
def Instr.wellFormed : Instr → Bool
  | .feed _     => true
  | .tick       => true
  | .reset      => true
  | .rdreg r    => Instr.listedRegister r
  | .encode _ _ => true

/-- Bits [31:24] of the command word, the opcode (rule R48). -/
def Command.opNumber (c : Command) : Nat := c.word.toNat / 2 ^ 24

/-- Rule R51 item 1: the opcode is none of rule R49. -/
def Command.opcodeUnlisted (c : Command) : Bool := !([0x01, 0x02, 0x03, 0x04, 0x10].contains c.opNumber)

/-- Rule R51 item 2: a bit that rule R50 marks reserved for this opcode is 1. -/
def Command.reservedBitSet (c : Command) : Bool :=
  match c.opNumber with
  | 0x01 => decide (c.word.toNat / 2 ^ 8 % 2 ^ 16 ≠ 0)
  | 0x02 => decide (c.word.toNat % 2 ^ 24 ≠ 0)
  | 0x03 => decide (c.word.toNat % 2 ^ 24 ≠ 0)
  | 0x04 => decide (c.word.toNat / 2 ^ 8 % 2 ^ 16 ≠ 0)
  | 0x10 => decide (c.word.toNat / 2 ^ 16 % 2 ^ 8 ≠ 0)
  | _    => false

/-- Rule R51 item 3: a payload vector comes with an opcode other than ENCODE. -/
def Command.strayVector (c : Command) : Bool := !c.vector.isEmpty && decide (c.opNumber ≠ 0x10)

/-- Rule R51 item 4: an RDREG of a register number that rule R21 does not list. -/
def Command.unlistedRegister (c : Command) : Bool :=
  decide (c.opNumber = 0x04) && decide (9 < c.word.toNat % 2 ^ 8)

/-- An illegal command: any of the four items of rule R51 holds. -/
def Command.illegal (c : Command) : Bool :=
  c.opcodeUnlisted || c.reservedBitSet || c.strayVector || c.unlistedRegister

end Sys2Proof
end

