-- ==== Sys2Proof/Decode.lean ====
section
/-!
DEFINITION. The decoder of command words, total on any transaction and rejecting by name (spec/30_encoding.md rules
R48-R51); the same over the bytes of a byte-wide link (spec/20_memory.md rule R28); the encoder, written from the same
layouts; and the pseudo-commands of rule R55.
-/
namespace Sys2Proof

/-- Why a transaction is no command. All but the last are the items of rule R51; the block answers each of those with
ILLEGAL, which carries no reason (rule R52), so the name is for the reader only. -/
inductive DecodeError where
  /-- Rule R51 item 1. -/
  | unlistedOpcode (op : Byte)
  /-- Rule R51 item 2. -/
  | reservedBit
  /-- Rule R51 item 3. -/
  | strayVector
  /-- Rule R51 item 4. -/
  | reservedRegister (r : Byte)
  /-- Fewer than the four bytes of a command word came over a byte-wide link (rule R28): no transaction yet. -/
  | truncatedWord
  deriving DecidableEq, Repr

/-- Bits [31:24], the opcode (rule R48). -/
def opField (w : Word) : Byte := w.extractLsb' 24 8

/-- Bits [7:0]: FEED's byte and RDREG's register number (rule R50). -/
def byteField (w : Word) : Byte := w.extractLsb' 0 8

/-- Bits [15:0]: ENCODE's topic_id (rule R50). -/
def topicField (w : Word) : Half := w.extractLsb' 0 16

/-- The register numbers of rule R21 are 0x00..0x09; the others are reserved (rule R51 item 4). -/
def registerListed (r : Byte) : Bool := decide (r ≤ 0x09)

/-- A command that takes no payload vector: its reserved bits must be 0 and its vector empty (rule R51 items 2, 3). -/
def plainCommand (reserved : Bool) (vector : List Byte) (i : Instr) : Except DecodeError Instr :=
  if reserved then .error .reservedBit
  else if vector.isEmpty then .ok i
  else .error .strayVector

/-- The command a transaction stands for (rules R49-R51). -/
def decode (c : Command) : Except DecodeError Instr :=
  let w := c.word
  if opField w = 0x01 then
    plainCommand (w.extractLsb' 8 16 != 0) c.vector (.feed (byteField w))
  else if opField w = 0x02 then
    plainCommand (w.extractLsb' 0 24 != 0) c.vector .tick
  else if opField w = 0x03 then
    plainCommand (w.extractLsb' 0 24 != 0) c.vector .reset
  else if opField w = 0x04 then
    if registerListed (byteField w) then
      plainCommand (w.extractLsb' 8 16 != 0) c.vector (.rdreg (byteField w))
    else .error (.reservedRegister (byteField w))
  else if opField w = 0x10 then
    if w.extractLsb' 16 8 != 0 then .error .reservedBit
    else .ok (.encode (topicField w) c.vector)
  else .error (.unlistedOpcode (opField w))

/-! ### Words over a byte-wide link, and the host's table words -/

/-- A word from four bytes, least significant byte first (rule R28). -/
def wordOfBytes (b0 b1 b2 b3 : Byte) : Word := b3 ++ b2 ++ b1 ++ b0

/-- A word as four bytes, least significant byte first (rule R28). -/
def bytesOfWord (w : Word) : List Byte :=
  [w.extractLsb' 0 8, w.extractLsb' 8 8, w.extractLsb' 16 8, w.extractLsb' 24 8]

/-- The transaction in a link's bytes: the command word, least significant byte first (rule R28), and what follows as
the payload vector. How a platform marks the vector's end is its own choice (rule R48), so the bytes given are those of
one transaction (notes/assumptions/4.md). -/
def commandOfBytes : List Byte → Option Command
  | b0 :: b1 :: b2 :: b3 :: rest => some { word := wordOfBytes b0 b1 b2 b3, vector := rest }
  | _ => none

/-- The decoder over the bytes of one transaction, total on any bytes. -/
def decodeBytes (bs : List Byte) : Except DecodeError Instr :=
  match commandOfBytes bs with
  | some c => decode c
  | none   => .error .truncatedWord

/-- The low `n` bytes of the number `w`, least significant first. -/
def lowBytes : Nat → Nat → List Byte
  | 0, _     => []
  | n + 1, w => BitVec.ofNat 8 w :: lowBytes n (w / 256)

/-- An instruction whose `nbits` bits are `w`, as the bytes of a transaction: bits 31..0 are the command word, and what
lies above them (no row of the table gives any) the payload vector. Bits above `nbits` are 0. -/
def tableBytes (nbits w : Nat) : List Byte :=
  lowBytes (max 4 ((nbits + 7) / 8)) (w % 2 ^ nbits)

/-- The transaction that carries the instruction whose `nbits` bits are `w`. -/
def tableCommand (nbits w : Nat) : Command :=
  (commandOfBytes (tableBytes nbits w)).getD { word := 0, vector := [] }

/-- The instruction the decoder reads from an instruction whose bits are `w`, numbered as spec/opcode_table.json
numbers them; `none` where it refuses. -/
def decodeTableWord (nbits w : Nat) : Option Instr :=
  match decodeBytes (tableBytes nbits w) with
  | .ok i    => some i
  | .error _ => none

/-! ### The encoder -/

/-- The opcode of each command (rule R49). -/
def Instr.opcode : Instr → Byte
  | .feed _     => 0x01
  | .tick       => 0x02
  | .reset      => 0x03
  | .rdreg _    => 0x04
  | .encode _ _ => 0x10

/-- The 24 operand bits of each command (rule R50). -/
def Instr.operandBits : Instr → BitVec 24
  | .feed b     => (0 : BitVec 16) ++ b
  | .tick       => 0
  | .reset      => 0
  | .rdreg r    => (0 : BitVec 16) ++ r
  | .encode t _ => (0 : BitVec 8) ++ t

/-- The payload vector beside the word: ENCODE's payload, empty for every other command (rule R48). -/
def Instr.payloadVector : Instr → List Byte
  | .encode _ p => p
  | _           => []

/-- The transaction of a command (rules R48-R50). -/
def encode (i : Instr) : Command :=
  { word := i.opcode ++ i.operandBits, vector := i.payloadVector }

/-! ### The opcode table -/

/-- A row of spec/opcode_table.json: a word is the row's when its masked bits equal `pattern`. -/
structure TableRow where
  mnemonic : String
  pattern  : Word
  mask     : Word
  deriving DecidableEq, Repr

/-- The rows of spec/opcode_table.json (rule R50). -/
def tableRows : List TableRow :=
  [ { mnemonic := "FEED",   pattern := 0x01000000, mask := 0xFFFFFF00 },
    { mnemonic := "TICK",   pattern := 0x02000000, mask := 0xFFFFFFFF },
    { mnemonic := "RESET",  pattern := 0x03000000, mask := 0xFFFFFFFF },
    { mnemonic := "RDREG",  pattern := 0x04000000, mask := 0xFFFFFF00 },
    { mnemonic := "ENCODE", pattern := 0x10000000, mask := 0xFFFF0000 } ]

/-- Whether a word lies in a row. -/
def TableRow.covers (r : TableRow) (w : Word) : Bool := w &&& r.mask == r.pattern

/-- The mnemonic of a command, as the table spells it. -/
def Instr.mnemonic : Instr → String
  | .feed _     => "FEED"
  | .tick       => "TICK"
  | .reset      => "RESET"
  | .rdreg _    => "RDREG"
  | .encode _ _ => "ENCODE"

/-! ### Pseudo-commands (rule R55) -/

/-- `FEEDS b0 b1 ... bn-1`: one FEED per byte, in order. -/
def feeds (bs : List Byte) : List Instr := bs.map .feed

/-- `WAIT n`: n TICK commands. -/
def wait (n : Nat) : List Instr := List.replicate n .tick

end Sys2Proof
end

