-- ==== Sys2Proof/Config.lean ====
section
/-!
DEFINITION. What an implementation fixes before reset is released (spec/00_scope.md rule R5).

MAX_PAYLOAD and TIMEOUT_TICKS are OPEN parameters of the spec (decisions D26 and D28): every rule that reads
them is written for any value in 0..65535. The host's step takes no configuration argument, so the machine's
State carries its Config as plain data that no command changes (notes/assumptions/1.md); statements quantify
over it. The block leaves no value open that a command could observe, so this file holds no free value.
-/
namespace Sys2Proof

/-- The configuration parameters of rule R5. Both are integers in 0..65535, so a `Half` has exactly their range. -/
structure Config where
  /-- `MAX_PAYLOAD`: the longest legal payload. Rules R5, R42; decisions D16, D26. -/
  maxPayload   : Half
  /-- `TIMEOUT_TICKS`: how many TICKs a mid-frame decoder tolerates. Rules R5, R84; decision D28. -/
  timeoutTicks : Half
  deriving DecidableEq, Repr

namespace Config

/-- The values rule R5 gives this hardware: MAX_PAYLOAD = 2048, TIMEOUT_TICKS = 30. -/
def standard : Config := { maxPayload := 2048, timeoutTicks := 30 }

/-- `PB_CAP`, the capacity of the payload buffer: rule R5 fixes it as MAX_PAYLOAD. -/
def pbCap (c : Config) : Nat := c.maxPayload.toNat

/-- The identification string of rule R1. It is not readable from the block. -/
def identification : String := "rosserial-framecodec-v7"

end Config
end Sys2Proof
end

