-- ==== Sys2Proof/Machine/State.lean ====
section
/-!
DEFINITION. The block's state as plain data: the record of spec/10_state.md rule R9, the payload buffer of
spec/20_memory.md rule R25, the configuration of spec/00_scope.md rule R5, and the two sides of the command port
(commands waiting, responses given: rules R4, R35, R52).
-/
namespace Sys2Proof.Machine

/-- The decoder's seven states (rule R12). Code 7 is never written, so it has no constructor. -/
inductive ParserState where
  | awaitSync0
  | awaitSync1
  | readLength
  | verifyLengthChecksum
  | readTopicId
  | readPayload
  | verifyMessageChecksum
  deriving DecidableEq, Repr

/-- The cause codes of spec/60_exceptions.md rule R90. Codes 6..255 are never produced, so they have no constructor. -/
inductive Cause where
  /-- 0: no resynchronisation since reset. -/
  | noCause
  /-- 1: FEED in AwaitSync1 of a byte that is not 0xFD. -/
  | badSync1
  /-- 2: FEED in VerifyLengthChecksum of a byte that is not LCK(dec_length). -/
  | badLengthChecksum
  /-- 3: FEED in VerifyLengthChecksum with the checksum right and dec_length > MAX_PAYLOAD. -/
  | oversizedLength
  /-- 4: FEED in VerifyMessageChecksum of a byte that is not MCK(dec_topic, dec_payload). -/
  | badMessageChecksum
  /-- 5: TICK mid-frame with idle_ticks at or above TIMEOUT_TICKS. -/
  | timeout
  deriving DecidableEq, Repr

/-- The responses of spec/30_encoding.md rule R52. Every command gets exactly one. -/
inductive Response where
  /-- TICK without timeout; RESET. -/
  | ok
  /-- FEED: the byte is taken and nothing is complete. -/
  | pending
  /-- FEED: a checksum-verified frame is complete. -/
  | message (topic : Half) (payload : List Byte)
  /-- FEED: the frame, or the candidate sync, is discarded; causes 1..4. -/
  | discarded (cause : Cause)
  /-- TICK: the inactivity timeout; cause 5. -/
  | timedOut (cause : Cause)
  /-- ENCODE: the frame's bytes. -/
  | frame (bytes : List Byte)
  /-- ENCODE: the payload is longer than MAX_PAYLOAD. -/
  | payloadTooLarge
  /-- RDREG: a register's value, zero-extended. -/
  | regValue (value : Word)
  /-- An illegal command (rule R51). -/
  | illegal
  deriving DecidableEq, Repr

/-- A memory: (address, byte) pairs, addresses strictly rising. An address that is not listed has no byte. -/
abbrev Memory := List Host.Cell

/-- The machine. The fields from `decState` to `lastCause`, `pb` apart, are exactly the record of rule R9. -/
structure State where
  /-- The configuration, which no command changes (rule R5; notes/assumptions/1.md). -/
  cfg          : Config
  /-- MODEL's field: the commands presented and not yet accepted, in the order the port accepts them
  (rules R4, R35, R36; notes/assumptions/2.md). -/
  port         : List Command
  /-- MODEL's field: every response given, oldest first (rules R4, R52, R106; notes/assumptions/3.md). -/
  responses    : List Response
  /-- `dec_state` (rule R12). -/
  decState     : ParserState
  /-- `dec_length` (rule R13). -/
  decLength    : Half
  /-- `dec_topic` (rule R14). -/
  decTopic     : Half
  /-- `dec_index` (rule R15). -/
  decIndex     : Half
  /-- `dec_payload` (rule R16). -/
  decPayload   : List Byte
  /-- PB, the payload buffer, addressed 0 .. PB_CAP-1, with the bytes earlier frames left in it (rules R16, R25). -/
  pb           : Memory
  /-- `idle_ticks` (rule R17). -/
  idleTicks    : Half
  /-- `discard_count` (rule R18). -/
  discardCount : Word
  /-- `timeout_count` (rule R19). -/
  timeoutCount : Word
  /-- `last_cause` (rule R20). -/
  lastCause    : Cause
  deriving DecidableEq, Repr

/-- Why the machine stops with a fault: it never does. "No command traps, faults, halts or stalls the block" (rule R89),
and a write to the payload buffer needs no bounds fault (rule R26). -/
inductive Fault where
  deriving DecidableEq, Repr

/-- Why an instruction has no meaning. -/
inductive Refusal where
  /-- Raised by `exec` alone, in the arm of an instruction that has no meaning yet (none is left). Safe: the model stops. -/
  | notModelled (mnemonic : String)
  deriving DecidableEq, Repr

/-- The machine right after power-on reset under configuration `c`: every field as rule R24 gives it, no command
presented, no response given, and the payload buffer with nothing listed, since rule R24 leaves its contents
unspecified and no command can observe them (notes/assumptions/5.md). -/
def State.resetWith (c : Config) : State where
  cfg          := c
  port         := []
  responses    := []
  decState     := .awaitSync0
  decLength    := 0
  decTopic     := 0
  decIndex     := 0
  decPayload   := []
  pb           := []
  idleTicks    := 0
  discardCount := 0
  timeoutCount := 0
  lastCause    := .noCause

/-- The machine right after power-on reset, configured as rule R5 says: MAX_PAYLOAD = 2048, TIMEOUT_TICKS = 30. -/
def State.reset : State := State.resetWith Config.standard

end Sys2Proof.Machine
end

