-- ==== Sys2Proof/Machine/Operands.lean ====
section
/-!
DEFINITION. Operand forms: the two bytes of a u16 and their assembly, low byte first (spec/20_memory.md rule R27), the
codes of the enumerated fields (rules R12, R90), and the register map that RDREG's operand selects from
(spec/10_state.md rule R21).
-/
namespace Sys2Proof.Machine

/-- `lo(v) = v[7:0]` (rule R6). -/
def lo (v : Half) : Byte := v.extractLsb' 0 8

/-- `hi(v) = v[15:8]` (rule R6). -/
def hi (v : Half) : Byte := v.extractLsb' 8 8

/-- `v[7:0] <- b`, the high byte kept (rules R69, R71). -/
def withLo (v : Half) (b : Byte) : Half := hi v ++ b

/-- `v[15:8] <- b`, the low byte kept (rules R69, R71). -/
def withHi (v : Half) (b : Byte) : Half := b ++ lo v

/-- The code of a decoder state (rule R12). -/
def ParserState.code : ParserState → BitVec 3
  | .awaitSync0            => 0
  | .awaitSync1            => 1
  | .readLength            => 2
  | .verifyLengthChecksum  => 3
  | .readTopicId           => 4
  | .readPayload           => 5
  | .verifyMessageChecksum => 6

/-- The code of a cause (rule R90). -/
def Cause.code : Cause → Byte
  | .noCause            => 0
  | .badSync1           => 1
  | .badLengthChecksum  => 2
  | .oversizedLength    => 3
  | .badMessageChecksum => 4
  | .timeout            => 5

/-- The ten registers of rule R21, all read-only (rule R22). -/
inductive Reg where
  | decState | decLength | decTopic | decIndex | discardCount
  | timeoutCount | lastCause | idleTicks | cfgMaxPayload | cfgTimeoutTicks
  deriving DecidableEq, Repr

/-- A register's number (rule R21). -/
def Reg.number : Reg → Byte
  | .decState        => 0x00
  | .decLength       => 0x01
  | .decTopic        => 0x02
  | .decIndex        => 0x03
  | .discardCount    => 0x04
  | .timeoutCount    => 0x05
  | .lastCause       => 0x06
  | .idleTicks       => 0x07
  | .cfgMaxPayload   => 0x08
  | .cfgTimeoutTicks => 0x09

/-- The registers in the order of rule R21. -/
def Reg.all : List Reg :=
  [.decState, .decLength, .decTopic, .decIndex, .discardCount,
   .timeoutCount, .lastCause, .idleTicks, .cfgMaxPayload, .cfgTimeoutTicks]

/-- The register a number names; `none` for a reserved number (rule R21). -/
def Reg.ofNumber (r : Byte) : Option Reg := Reg.all.find? (fun reg => reg.number == r)

/-- A register's value as rule R21 lays it out: the field in the low bits, zero-extended to 32 bits. -/
def readReg (reg : Reg) (s : State) : Word :=
  match reg with
  | .decState        => s.decState.code.setWidth 32
  | .decLength       => s.decLength.setWidth 32
  | .decTopic        => s.decTopic.setWidth 32
  | .decIndex        => s.decIndex.setWidth 32
  | .discardCount    => s.discardCount
  | .timeoutCount    => s.timeoutCount
  | .lastCause       => s.lastCause.code.setWidth 32
  | .idleTicks       => s.idleTicks.setWidth 32
  | .cfgMaxPayload   => s.cfg.maxPayload.setWidth 32
  | .cfgTimeoutTicks => s.cfg.timeoutTicks.setWidth 32

end Sys2Proof.Machine
end

