-- ==== Sys2Proof/Machine/Checksum.lean ====
section
/-!
DEFINITION. The checksum functions of spec/40_checksum.md, on unbounded naturals and reduced once (rule R56), and the
frame layout of spec/30_encoding.md rule R40 that carries them. Pure functions: the validator holds no state (rule R64).
-/
namespace Sys2Proof.Machine

/-- sync0, a constant (rule R41). -/
abbrev sync0 : Byte := 0xFF

/-- sync1, a constant (rule R41). -/
abbrev sync1 : Byte := 0xFD

/-- `Σ s` (rule R6). -/
def byteSum (s : List Byte) : Nat := (s.map BitVec.toNat).sum

/-- `sum8(s) = (Σ s) mod 256` (rule R56). -/
def sum8 (s : List Byte) : Byte := BitVec.ofNat 8 (byteSum s % 256)

/-- `cpl(x) = 255 - (x mod 256)` (rule R57). -/
def cpl (x : Nat) : Byte := BitVec.ofNat 8 (255 - x % 256)

/-- The length checksum `LCK(length) = 255 - (length mod 256)` (rule R58). -/
def lck (length : Half) : Byte := cpl length.toNat

/-- The message checksum `MCK(t, p) = cpl(t[7:0] + t[15:8] + Σ p)` (rule R59). -/
def mck (t : Half) (p : List Byte) : Byte := cpl ((lo t).toNat + (hi t).toNat + byteSum p)

/-- The bytes of the frame of topic_id `t` and payload `p`, first on the wire first (rules R40, R80). -/
def frameBytes (t : Half) (p : List Byte) : List Byte :=
  let length : Half := BitVec.ofNat 16 p.length
  [sync0, sync1, lo length, hi length, lck length, lo t, hi t] ++ p ++ [mck t p]

end Sys2Proof.Machine
end

