-- ==== Sys2Proof/Machine/Flags.lean ====
section
/-!
DEFINITION. The block has no flags register. What stands in one's place is the verdict of each validator
(spec/40_checksum.md rules R60, R61): the conditions the decoder's arms branch on.
-/
namespace Sys2Proof.Machine

/-- `MSG_VALID(t, p, c)`: the received byte is the message checksum (rules R60, R62). -/
def msgValid (t : Half) (p : List Byte) (c : Byte) : Bool := c == mck t p

/-- The three verdicts of the length validator (rule R61). -/
inductive LenVerdict where
  | badLengthChecksum
  | oversizedLength
  | ok
  deriving DecidableEq, Repr

/-- `LEN_CHECK(L, c)` under MAX_PAYLOAD = `maxPayload`: the checksum is tested first (rules R61, R92; decision D10). -/
def lenCheck (maxPayload L : Half) (c : Byte) : LenVerdict :=
  if c ≠ lck L then .badLengthChecksum
  else if maxPayload.toNat < L.toNat then .oversizedLength
  else .ok

end Sys2Proof.Machine
end

