-- ==== Sys2Proof/Machine/Ops.lean ====
section
/-!
DEFINITION. The named operations the commands are built from: the payload buffer's read and write, the port's two sides,
and the block's one reaction to a failure, resynchronisation, which stands where a processor takes an exception
(spec/60_exceptions.md rules R89, R94). There is no return from it (rule R95): the next FEED goes on from the state
it leaves.
-/
namespace Sys2Proof.Machine

/-! ### The payload buffer (spec/20_memory.md rule R25) -/

/-- What an address that is not listed reads as: no byte. Rule R24 leaves the buffer's contents before a frame writes
them unspecified (notes/assumptions/5.md). -/
def Memory.unlisted : Option Byte := none

/-- The byte at an address. -/
def Memory.read : Memory → Nat → Option Byte
  | [], _ => Memory.unlisted
  | (k, v) :: m, a => if k = a then some v else Memory.read m a

/-- The memory with one byte written, in canonical form again. -/
def Memory.write : Memory → Nat → Byte → Memory
  | [], a, b => [(a, b)]
  | (k, v) :: m, a, b =>
    if a < k then (a, b) :: (k, v) :: m
    else if a = k then (a, b) :: m
    else (k, v) :: Memory.write m a b

/-- Every address listed is above `a`, and they rise strictly. -/
def Memory.risesAbove : Nat → Memory → Bool
  | _, [] => true
  | a, (k, _) :: m => decide (a < k) && Memory.risesAbove k m

/-- The canonical form: addresses strictly rising. No entry can equal what an unlisted address reads as, which is no
byte at all. -/
def Memory.wf : Memory → Bool
  | [] => true
  | (k, _) :: m => Memory.risesAbove k m

/-- The `n` bytes from address 0 up, as they read. -/
def Memory.readFirst (m : Memory) (n : Nat) : List (Option Byte) := (List.range n).map (Memory.read m)

/-! ### The command port (rules R4, R35, R52, R106) -/

/-- The host presents a command: it is accepted after every command presented before it (rule R35). -/
def State.present (c : Command) (s : State) : State := { s with port := s.port ++ [c] }

/-- The command the port accepts next, and the state with it accepted. -/
def State.accept (s : State) : Option (Command × State) :=
  match s.port with
  | []        => none
  | c :: rest => some (c, { s with port := rest })

/-- `respond(R)`: the command ends with response R (rule R7). Responses already given do not change (rule R106). -/
def State.respond (r : Response) (s : State) : State := { s with responses := s.responses ++ [r] }

/-! ### Idle and resynchronisation (spec/41_decoder.md rule R66) -/

/-- `enter_idle()` (rule R66). The payload buffer keeps what it holds (rule R16). -/
def State.enterIdle (s : State) : State :=
  { s with
    decState   := .awaitSync0
    decLength  := 0
    decTopic   := 0
    decIndex   := 0
    decPayload := []
    idleTicks  := 0 }

/-- The failing byte re-evaluated as sync0 (rule R66, conflict C1). -/
def State.rescan (b : Byte) (s : State) : State :=
  if b = sync0 then { s with decState := .awaitSync1 } else s

/-- `discard(cause, b)`: the resynchronisation every failing arm of FEED performs (rule R66). -/
def State.discard (cause : Cause) (b : Byte) (s : State) : State :=
  (({ s with
      discardCount := s.discardCount + 1
      lastCause    := cause }).enterIdle.rescan b).respond (.discarded cause)

/-- The forcible reset of the inactivity timeout (rule R84): no byte is re-evaluated, and it is not a discard. -/
def State.timeOut (s : State) : State :=
  ({ s with
      timeoutCount := s.timeoutCount + 1
      lastCause    := .timeout }).enterIdle.respond (.timedOut .timeout)

end Sys2Proof.Machine
end

