-- ==== Sys2Proof/Machine/Control.lean ====
section
/-!
DEFINITION. The inactivity timer and the control commands: TICK, RESET, RDREG and the handling of an illegal command
(spec/43_timer_control.md).
-/
namespace Sys2Proof.Machine

/-- TICK (rule R84). -/
def execTick (s : State) : Host.Outcome State Fault Refusal :=
  if s.decState = .awaitSync0 then .next (s.respond .ok)
  else if s.cfg.timeoutTicks ≤ s.idleTicks then .next s.timeOut
  else .next (({ s with idleTicks := s.idleTicks + 1 }).respond .ok)

/-- RESET (rule R86): every field of rule R9 at its reset value, the configuration unchanged. -/
def execReset (s : State) : Host.Outcome State Fault Refusal :=
  .next (({ s.enterIdle with
      discardCount := 0
      timeoutCount := 0
      lastCause    := .noCause }).respond .ok)

/-- An illegal command (rule R88): the response ILLEGAL, and nothing else. -/
def illegalCommand (s : State) : Host.Outcome State Fault Refusal := .next (s.respond .illegal)

/-- RDREG (rule R87). A reserved number is illegal (rule R51 item 4): the command decoder refuses it before this is
reached, and the rule's own test stands here too. -/
def execRdreg (r : Byte) (s : State) : Host.Outcome State Fault Refusal :=
  match Reg.ofNumber r with
  | some reg => .next (s.respond (.regValue (readReg reg s)))
  | none     => illegalCommand s

end Sys2Proof.Machine
end

