-- ==== Sys2Proof/Machine/FrameDecoder.lean ====
section
/-!
DEFINITION. The frame decoder: FEED (spec/41_decoder.md rule R65) and its seven arms (rules R67-R73).
-/
namespace Sys2Proof.Machine

/-- ARM_SYNC0 (rule R67). -/
def armSync0 (b : Byte) (s : State) : State :=
  (if b = sync0 then { s with decState := .awaitSync1 } else s).respond .pending

/-- ARM_SYNC1 (rule R68). -/
def armSync1 (b : Byte) (s : State) : State :=
  if b = sync1 then ({ s with decState := .readLength, decIndex := 0 }).respond .pending
  else s.discard .badSync1 b

/-- ARM_LEN (rule R69). -/
def armLen (b : Byte) (s : State) : State :=
  (if s.decIndex = 0 then { s with decLength := withLo s.decLength b, decIndex := 1 }
   else { s with decLength := withHi s.decLength b, decIndex := 0, decState := .verifyLengthChecksum }).respond .pending

/-- ARM_LCK (rule R70). -/
def armLck (b : Byte) (s : State) : State :=
  match lenCheck s.cfg.maxPayload s.decLength b with
  | .badLengthChecksum => s.discard .badLengthChecksum b
  | .oversizedLength   => s.discard .oversizedLength b
  | .ok                => ({ s with decState := .readTopicId, decIndex := 0 }).respond .pending

/-- ARM_TOPIC (rule R71). -/
def armTopic (b : Byte) (s : State) : State :=
  (if s.decIndex = 0 then { s with decTopic := withLo s.decTopic b, decIndex := 1 }
   else
    { s with
      decTopic := withHi s.decTopic b
      decIndex := 0
      decState := if s.decLength = 0 then .verifyMessageChecksum else .readPayload }).respond .pending

/-- The payload byte stored: in PB at `dec_index`, and at the end of `dec_payload`; the index moves on (rules R25, R72). -/
def storePayload (b : Byte) (s : State) : State :=
  { s with
    pb         := Memory.write s.pb s.decIndex.toNat b
    decPayload := s.decPayload ++ [b]
    decIndex   := s.decIndex + 1 }

/-- The last payload byte of a frame ends ReadPayload (rule R72). -/
def closePayload (s : State) : State :=
  if s.decIndex = s.decLength then { s with decState := .verifyMessageChecksum, decIndex := 0 } else s

/-- ARM_PAYLOAD (rule R72). -/
def armPayload (b : Byte) (s : State) : State := (closePayload (storePayload b s)).respond .pending

/-- ARM_MCK (rule R73). The MESSAGE's topic_id and payload are copies taken before `enter_idle`. -/
def armMck (b : Byte) (s : State) : State :=
  if msgValid s.decTopic s.decPayload b then s.enterIdle.respond (.message s.decTopic s.decPayload)
  else s.discard .badMessageChecksum b

/-- Any byte restarts the inactivity timer (rule R65, decision D11). -/
def restartTimer (s : State) : State := { s with idleTicks := 0 }

/-- The arm of the decoder's state (rule R65). -/
def feedArm (b : Byte) (s : State) : State :=
  match s.decState with
  | .awaitSync0            => armSync0 b s
  | .awaitSync1            => armSync1 b s
  | .readLength            => armLen b s
  | .verifyLengthChecksum  => armLck b s
  | .readTopicId           => armTopic b s
  | .readPayload           => armPayload b s
  | .verifyMessageChecksum => armMck b s

/-- FEED (rule R65). -/
def execFeed (b : Byte) (s : State) : Host.Outcome State Fault Refusal := .next (feedArm b (restartTimer s))

end Sys2Proof.Machine
end

