-- ==== Sys2Proof/Machine/FrameEncoder.lean ====
section
/-!
DEFINITION. The frame encoder: ENCODE (spec/42_encoder.md rule R80), a pure function of its operands and MAX_PAYLOAD.
-/
namespace Sys2Proof.Machine

/-- ENCODE's response, a function of (t, p, MAX_PAYLOAD) alone (rules R80, R83). -/
def encodeResponse (maxPayload t : Half) (p : List Byte) : Response :=
  if maxPayload.toNat < p.length then .payloadTooLarge else .frame (frameBytes t p)

/-- ENCODE (rule R80): no field of rule R9 is read or written. -/
def execEncode (t : Half) (p : List Byte) (s : State) : Host.Outcome State Fault Refusal :=
  .next (s.respond (encodeResponse s.cfg.maxPayload t p))

end Sys2Proof.Machine
end

