-- ==== Sys2Proof/Machine/Step.lean ====
section
/-!
DEFINITION. One step: the port accepts the next command, the command decoder reads it, and the block performs it, in
one indivisible step (spec/00_scope.md rule R4, spec/20_memory.md rules R32, R35). The block has no program counter
and fetches nothing (rule R11): a command is "fetched" from the head of the port.
-/
namespace Sys2Proof.Machine

/-- One step. With no command presented the block waits, unchanged (notes/assumptions/6.md); a command that the decoder
refuses is illegal (rules R51, R88); any other is performed. -/
def step (s : State) : Host.Outcome State Fault Refusal :=
  match s.accept with
  | none => .next s
  | some (c, s') =>
    match decode c with
    | .ok i    => exec i s'
    | .error _ => illegalCommand s'

/-- `s` with the transaction of a table word at the head of the port, where `step` takes its next command. -/
def State.withFetchWord (s : State) (nbits w : Nat) : State :=
  { s with port := tableCommand nbits w :: s.port }

end Sys2Proof.Machine
end

