-- ==== Sys2Proof/Machine/Assembly.lean ====
section
/-!
DEFINITION. The assembler of spec/30_encoding.md rules R54 and R55: one command or pseudo-command per line, over lists
of characters. It gives instructions, whose words `encode` writes; a reserved register number assembles (program P5 of
spec/95_test_vectors.md) and its word is illegal. What the rules do not say of the notation is in
notes/assumptions/8.md.
-/
namespace Sys2Proof.Machine

/-- A token: a word, or one of the three marks of ENCODE's vector. -/
inductive Token where
  | word (cs : List Char)
  | comma
  | openBracket
  | closeBracket
  deriving DecidableEq, Repr

/-- A pending word, closed. -/
def closeWord (acc : List Char) : List Token := if acc.isEmpty then [] else [.word acc.reverse]

/-- The tokens of a line's characters; `;` starts a comment (rule R54). `acc` holds the open word, last character first. -/
def tokensFrom : List Char → List Char → List Token
  | acc, [] => closeWord acc
  | acc, c :: cs =>
    if c = ';' then closeWord acc
    else if c = ' ' ∨ c = '\t' then closeWord acc ++ tokensFrom [] cs
    else if c = ',' then closeWord acc ++ .comma :: tokensFrom [] cs
    else if c = '[' then closeWord acc ++ .openBracket :: tokensFrom [] cs
    else if c = ']' then closeWord acc ++ .closeBracket :: tokensFrom [] cs
    else tokensFrom (c :: acc) cs

/-- The tokens of a line. -/
def tokens (line : List Char) : List Token := tokensFrom [] line

/-- The value of a hexadecimal digit, in either case: its place among the sixteen. -/
def hexDigit (c : Char) : Option Nat :=
  ["0123456789ABCDEF", "0123456789abcdef"].findSome? fun row => row.toList.idxOf? c

/-- The value of a digit in a base. -/
def digitIn (base : Nat) (c : Char) : Option Nat := (hexDigit c).filter fun d => decide (d < base)

/-- The number a list of digits stands for in a base, most significant first. -/
def digits (base : Nat) (cs : List Char) : Option Nat :=
  (cs.mapM (digitIn base)).map fun ds => ds.foldl (fun n d => base * n + d) 0

/-- A number: hex with `0x`, or decimal (rule R54). -/
def number : List Char → Option Nat
  | []              => none
  | '0' :: 'x' :: cs => if cs.isEmpty then none else digits 16 cs
  | cs              => digits 10 cs

/-- A number that fits `n` bits. -/
def numberOf (n : Nat) (cs : List Char) : Option (BitVec n) :=
  match number cs with
  | some v => if v < 2 ^ n then some (BitVec.ofNat n v) else none
  | none   => none

/-- The name of a register (rule R21). -/
def Reg.name : Reg → List Char
  | .decState        => "DEC_STATE".toList
  | .decLength       => "DEC_LENGTH".toList
  | .decTopic        => "DEC_TOPIC".toList
  | .decIndex        => "DEC_INDEX".toList
  | .discardCount    => "DISCARD_COUNT".toList
  | .timeoutCount    => "TIMEOUT_COUNT".toList
  | .lastCause       => "LAST_CAUSE".toList
  | .idleTicks       => "IDLE_TICKS".toList
  | .cfgMaxPayload   => "CFG_MAX_PAYLOAD".toList
  | .cfgTimeoutTicks => "CFG_TIMEOUT_TICKS".toList

/-- RDREG's operand: a name of rule R21, or a number. -/
def registerOperand (cs : List Char) : Option Byte :=
  match Reg.all.find? (fun reg => reg.name == cs) with
  | some reg => some reg.number
  | none     => numberOf 8 cs

/-- The rest of ENCODE's vector after one of its bytes: `, <b> ... ]`. -/
def vectorTail : List Token → Option (List Byte)
  | [.closeBracket] => some []
  | .comma :: .word cs :: rest =>
    match numberOf 8 cs, vectorTail rest with
    | some b, some bs => some (b :: bs)
    | _, _ => none
  | _ => none

/-- ENCODE's vector: `[<b0>, <b1>, ...]`, `[]` for empty (rule R54). -/
def vectorOperand : List Token → Option (List Byte)
  | [.openBracket, .closeBracket] => some []
  | .openBracket :: .word cs :: rest =>
    match numberOf 8 cs, vectorTail rest with
    | some b, some bs => some (b :: bs)
    | _, _ => none
  | _ => none

/-- The bytes of a word of hex pairs. -/
def hexPairs : List Char → Option (List Byte)
  | [] => some []
  | c1 :: c0 :: cs =>
    match hexDigit c1, hexDigit c0, hexPairs cs with
    | some d1, some d0, some bs => some (BitVec.ofNat 8 (16 * d1 + d0) :: bs)
    | _, _, _ => none
  | _ => none

/-- FEEDS's operand: hex pairs, spaces allowed between them (rule R55). -/
def feedsOperand : List Token → Option (List Byte)
  | [] => some []
  | .word cs :: rest =>
    match hexPairs cs, feedsOperand rest with
    | some bs, some bs' => some (bs ++ bs')
    | _, _ => none
  | _ => none

/-- The instructions of a line that is not empty, from its mnemonic and its operands (rules R54, R55). -/
def assembleCommand (mnemonic : List Char) (operands : List Token) : Option (List Instr) :=
  if mnemonic = "FEED".toList then
    match operands with
    | [.word cs] => (numberOf 8 cs).map fun b => [.feed b]
    | _ => none
  else if mnemonic = "TICK".toList then
    if operands.isEmpty then some [.tick] else none
  else if mnemonic = "RESET".toList then
    if operands.isEmpty then some [.reset] else none
  else if mnemonic = "RDREG".toList then
    match operands with
    | [.word cs] => (registerOperand cs).map fun r => [.rdreg r]
    | _ => none
  else if mnemonic = "ENCODE".toList then
    match operands with
    | .word cs :: .comma :: rest =>
      match numberOf 16 cs, vectorOperand rest with
      | some t, some p => some [.encode t p]
      | _, _ => none
    | _ => none
  else if mnemonic = "FEEDS".toList then
    (feedsOperand operands).map feeds
  else if mnemonic = "WAIT".toList then
    match operands with
    | [.word cs] => (number cs).map wait
    | _ => none
  else none

/-- The instructions of a line: none for a line that is empty but for a comment; no answer for a line that is no command
(rule R55: "No other pseudo-command exists"). -/
def assembleLine (line : List Char) : Option (List Instr) :=
  match tokens line with
  | []               => some []
  | .word cs :: rest => assembleCommand cs rest
  | _                => none

/-- The transactions of a command sequence, one line after the other. -/
def assemble : List (List Char) → Option (List Command)
  | [] => some []
  | line :: rest =>
    match assembleLine line, assemble rest with
    | some is, some cs => some (is.map encode ++ cs)
    | _, _ => none

end Sys2Proof.Machine
end

