-- ==== Sys2Proof/Machine/HostTable.lean ====
section
/-!
DEFINITION. The host's side: the agents and what each issues (spec/60_exceptions.md rule R98), and the host table of
spec/70_reset_and_hazards.md rule R112: for each interaction what the host sends, what the block returns, what the host
may do and what it must. The block checks none of it (rules R97, R107), so none of it stands in `step`: a duty is a
predicate on a connection, and claims take the duties they need as premises.
-/
namespace Sys2Proof.Machine

/-! ### Agents -/

/-- The agents that issue commands (rule R98). -/
inductive Agent where
  | rxFeeder
  | tickSource
  | txProducer (n : Nat)
  | controller (n : Nat)
  deriving DecidableEq, Repr

/-- The commands each agent issues (rule R98). The block accepts every command from every agent (rule R97): this is a
duty of the hosts, not a check of the block's. -/
def Agent.issues : Agent → Instr → Bool
  | .rxFeeder,     .feed _     => true
  | .tickSource,   .tick       => true
  | .txProducer _, .encode _ _ => true
  | .controller _, .reset      => true
  | .controller _, .rdreg _    => true
  | _, _ => false

/-- The commands in the total order the port accepted them, each with its agent (rule R36). -/
abbrev Schedule := List (Agent × Instr)

/-- Every agent issues only its own commands (rules R98, R107 item 1). -/
def Schedule.obeysRoles (sch : Schedule) : Bool := sch.all fun ai => ai.1.issues ai.2

/-- The commands of one agent, in its issue order, which the port keeps (rule R36). -/
def Schedule.commandsOf (sch : Schedule) (a : Agent) : List Instr :=
  (sch.filter fun ai => decide (ai.1 = a)).map Prod.snd

/-- All the commands, in the order the port accepted them. -/
def Schedule.commands (sch : Schedule) : List Instr := sch.map Prod.snd

/-! ### The host table (rule R112) -/

/-- The rows of the table. -/
inductive Interaction where
  | receiveByte
  | timePasses
  | newConnection
  | observe
  | sendMessage
  deriving DecidableEq, Repr

/-- The row a command belongs to: the table's column "host sends". -/
def interactionOf : Instr → Interaction
  | .feed _     => .receiveByte
  | .tick       => .timePasses
  | .reset      => .newConnection
  | .rdreg _    => .observe
  | .encode _ _ => .sendMessage

/-- The table's column "block returns". -/
def Interaction.returns : Interaction → Response → Bool
  | .receiveByte,   .pending         => true
  | .receiveByte,   .message _ _     => true
  | .receiveByte,   .discarded _     => true
  | .timePasses,    .ok              => true
  | .timePasses,    .timedOut _      => true
  | .newConnection, .ok              => true
  | .observe,       .regValue _      => true
  | .observe,       .illegal         => true
  | .sendMessage,   .frame _         => true
  | .sendMessage,   .payloadTooLarge => true
  | _, _ => false

/-- What a host may do and need not: no claim may count on it ("a liberty never ends a wait"). -/
inductive Liberty where
  /-- Issue the command at any time. -/
  | atAnyTime
  /-- Issue it any number of times. -/
  | anyNumberOfTimes
  /-- Issue it from any agent of its kind, concurrently with the others. -/
  | fromAnyAgent
  deriving DecidableEq, Repr

/-- What a host must do. -/
inductive Duty where
  /-- Exactly one agent issues FEED (rule R107 item 1). -/
  | oneFeeder
  /-- It issues one FEED per received byte, in arrival order (rule R107 item 2). -/
  | arrivalOrder
  /-- One TICK every TICK_PERIOD, and none at any other time (rule R108). -/
  | tickEveryPeriod
  /-- A byte and a TICK that arrive together are ordered FEED first (rules R93, R108). -/
  | feedFirstOnTie
  /-- RESET at connection start (rule R105). -/
  | resetAtStart
  /-- Each FRAME is written to the transport contiguously (rule R110). -/
  | contiguousOutput
  deriving DecidableEq, Repr

/-- The table's column "host may". With a received byte it may do "nothing else", and with time nothing at all. -/
def Interaction.may : Interaction → List Liberty
  | .receiveByte   => []
  | .timePasses    => []
  | .newConnection => [.atAnyTime]
  | .observe       => [.atAnyTime, .anyNumberOfTimes]
  | .sendMessage   => [.fromAnyAgent]

/-- The table's column "host must". -/
def Interaction.must : Interaction → List Duty
  | .receiveByte   => [.oneFeeder, .arrivalOrder]
  | .timePasses    => [.tickEveryPeriod, .feedFirstOnTie]
  | .newConnection => [.resetAtStart]
  | .observe       => []
  | .sendMessage   => [.contiguousOutput]

/-- A command a host is at liberty to issue: RESET, RDREG, ENCODE. -/
def isLiberty (i : Instr) : Bool := !(interactionOf i).may.isEmpty

/-! ### Connections and their duties -/

/-- A command at the time the port accepted it, in any unit of time. -/
structure Event where
  time  : Nat
  agent : Agent
  instr : Instr
  deriving DecidableEq, Repr

/-- A connection of a block: what its hosts did from `start` to `stop`. -/
structure Connection where
  /-- The block's parameters, fixed before reset is released (rule R104 item 1). -/
  cfg      : Config
  /-- TICK_PERIOD (rule R5). -/
  period   : Nat
  start    : Nat
  stop     : Nat
  /-- The commands, in the order the port accepted them. -/
  events   : List Event
  /-- The bytes the transport received, in arrival order. -/
  received : List Byte
  /-- The bytes the hosts gave the transport to send. -/
  output   : List Byte
  deriving DecidableEq, Repr

/-- The commands in the order the port accepted them. -/
def Connection.commands (c : Connection) : List Instr := c.events.map Event.instr

/-- The port accepts commands one after the other, within the connection (rule R35). -/
def Connection.ordered (c : Connection) : Prop :=
  c.events.Pairwise (fun e f => e.time ≤ f.time) ∧ ∀ e ∈ c.events, c.start ≤ e.time ∧ e.time ≤ c.stop

/-- The time of a TICK. -/
def Event.tickTime (e : Event) : Option Nat :=
  match e.instr with
  | .tick => some e.time
  | _     => none

/-- The byte of a FEED, with its time. -/
def Event.fed (e : Event) : Option (Nat × Byte) :=
  match e.instr with
  | .feed b => some (e.time, b)
  | _       => none

/-- The times of the TICKs. -/
def Connection.tickTimes (c : Connection) : List Nat := c.events.filterMap Event.tickTime

/-- The bytes fed, by whichever agent, with their times. -/
def Connection.fed (c : Connection) : List (Nat × Byte) := c.events.filterMap Event.fed

/-- The message of an ENCODE. -/
def messageOf : Instr → Option (Half × List Byte)
  | .encode t p => some (t, p)
  | _           => none

/-- The messages the block framed: those of the ENCODEs within MAX_PAYLOAD. -/
def Connection.framed (c : Connection) : List (Half × List Byte) :=
  (c.commands.filterMap messageOf).filter fun m => decide (m.2.length ≤ c.cfg.maxPayload.toNat)

/-- The bytes of the FRAME responses, one list for each. -/
def Connection.frames (c : Connection) : List (List Byte) := c.framed.map fun m => frameBytes m.1 m.2

/-- A connection keeps a duty. -/
def Duty.kept (c : Connection) : Duty → Prop
  | .oneFeeder        => ∀ e ∈ c.events, e.fed.isSome = true → e.agent = .rxFeeder
  | .arrivalOrder     => ((c.events.filter fun e => decide (e.agent = .rxFeeder)).filterMap Event.fed).map Prod.snd = c.received
  | .tickEveryPeriod  => ∃ phase n, phase < c.period ∧
      c.tickTimes = (List.range n).map (fun k => c.start + phase + k * c.period) ∧
      c.stop ≤ c.start + phase + n * c.period
  | .feedFirstOnTie   => c.events.Pairwise fun e f => e.tickTime.isSome = true → f.fed.isSome = true → e.time < f.time
  | .resetAtStart     => ∃ e rest n, c.events = e :: rest ∧ e.instr = .reset ∧ e.agent = .controller n
  | .contiguousOutput => ∃ order : List (List Byte), order.Perm c.frames ∧ c.output = order.flatten

/-- A connection keeps every duty of the host table. -/
def Connection.keepsDuties (c : Connection) : Prop := ∀ k : Interaction, ∀ d ∈ k.must, d.kept c

/-- The peer's own duty (rule R109): within each frame of the messages `sent`, no gap longer than `bound` between two
bytes that come one after the other. `times` are the times of the bytes of all the frames, in order. -/
def gapsWithin (bound : Nat) : List (Half × List Byte) → List Nat → Prop
  | [], _ => True
  | m :: sent, times =>
    (times.take (frameBytes m.1 m.2).length).IsChain (fun a b => b ≤ a + bound) ∧
    gapsWithin bound sent (times.drop (frameBytes m.1 m.2).length)

end Sys2Proof.Machine
end

