-- ==== Sys2Proof/Machine/ResponseWord.lean ====
section
/-!
DEFINITION. The binary form of a response: the header word of spec/30_encoding.md rule R53, the value word of REG_VALUE,
and the byte vector beside the header.
-/
namespace Sys2Proof.Machine

/-- The kind code (rule R52). -/
def Response.kindCode : Response → Byte
  | .ok              => 0x00
  | .pending         => 0x01
  | .message _ _     => 0x02
  | .discarded _     => 0x03
  | .timedOut _      => 0x04
  | .frame _         => 0x05
  | .payloadTooLarge => 0x06
  | .regValue _      => 0x07
  | .illegal         => 0xFF

/-- Bits [23:16] of the header: the cause code of DISCARDED and TIMED_OUT, 0 otherwise (rule R53). -/
def Response.causeField : Response → Byte
  | .discarded c => c.code
  | .timedOut c  => c.code
  | _            => 0

/-- Bits [15:0] of the header: the topic_id of MESSAGE, 0 otherwise (rule R53). -/
def Response.topicField : Response → Half
  | .message t _ => t
  | _            => 0

/-- The header word (rule R53). -/
def Response.header (r : Response) : Word := r.kindCode ++ r.causeField ++ r.topicField

/-- The one further word, of REG_VALUE alone (rule R53). -/
def Response.valueWord : Response → Option Word
  | .regValue v => some v
  | _           => none

/-- The byte vector beside the header, of MESSAGE and FRAME (rule R53). -/
def Response.byteVector : Response → List Byte
  | .message _ p => p
  | .frame bytes => bytes
  | _            => []

/-- FEED's three kinds of response (rules R52, R65). -/
def Response.isFeedKind : Response → Bool
  | .pending | .message _ _ | .discarded _ => true
  | _ => false

/-- Whether the response is DISCARDED. -/
def Response.isDiscarded : Response → Bool
  | .discarded _ => true
  | _ => false

/-- Whether the response is TIMED_OUT. -/
def Response.isTimedOut : Response → Bool
  | .timedOut _ => true
  | _ => false

end Sys2Proof.Machine
end

