-- ==== Sys2Proof/Safety.lean ====
section
/-!
DEFINITION. The terms claims are stated in: the invariants of spec/10_state.md rule R23, runs of commands, what a run
fed and answered, and what the decoder holds of the frame in progress. The agents, the host table and its duties are in
Machine/HostTable.lean.
-/
namespace Sys2Proof.Machine

/-! ### Invariants -/

/-- The invariants of rule R23, item by item; `verifyLength` is what rules R14, R15 and R16 say of
VerifyLengthChecksum, which R23 does not list and its items 5 and 6 need. -/
structure Inv (s : State) : Prop where
  /-- R23 item 1. -/
  awaitSync0 : s.decState = .awaitSync0 →
    s.decLength = 0 ∧ s.decTopic = 0 ∧ s.decIndex = 0 ∧ s.decPayload = [] ∧ s.idleTicks = 0
  /-- R23 item 2. -/
  awaitSync1 : s.decState = .awaitSync1 →
    s.decLength = 0 ∧ s.decTopic = 0 ∧ s.decIndex = 0 ∧ s.decPayload = []
  /-- R23 item 3. -/
  readLength : s.decState = .readLength →
    (s.decIndex = 0 ∨ s.decIndex = 1) ∧ (s.decIndex = 0 → s.decLength = 0) ∧ s.decTopic = 0 ∧ s.decPayload = []
  /-- Rules R14, R15, R16. -/
  verifyLength : s.decState = .verifyLengthChecksum →
    s.decTopic = 0 ∧ s.decIndex = 0 ∧ s.decPayload = []
  /-- R23 item 4. -/
  lengthBound : s.decState = .readTopicId ∨ s.decState = .readPayload ∨ s.decState = .verifyMessageChecksum →
    s.decLength.toNat ≤ s.cfg.maxPayload.toNat
  /-- R23 item 5. -/
  readTopicId : s.decState = .readTopicId →
    (s.decIndex = 0 ∨ s.decIndex = 1) ∧ (s.decIndex = 0 → s.decTopic = 0) ∧ s.decPayload = []
  /-- R23 item 6. -/
  readPayload : s.decState = .readPayload →
    1 ≤ s.decLength.toNat ∧ s.decIndex.toNat = s.decPayload.length ∧ s.decPayload.length < s.decLength.toNat
  /-- R23 item 7. -/
  verifyMessage : s.decState = .verifyMessageChecksum →
    s.decPayload.length = s.decLength.toNat ∧ s.decIndex = 0
  /-- R23 item 8. -/
  idleBound : s.idleTicks.toNat ≤ s.cfg.timeoutTicks.toNat
  /-- R23 item 9. -/
  causeCode : s.lastCause.code.toNat ≤ 5

/-- What the payload buffer holds (rules R16, R25, R26): it is in canonical form, no byte of it lies at or above PB_CAP,
and while a frame's payload is held its first bytes are the bytes collected. -/
structure BufferInv (s : State) : Prop where
  /-- The list form (the model's own). -/
  canonical : Memory.wf s.pb = true
  /-- Rule R26: a write never lands outside PB[0 .. MAX_PAYLOAD-1]. -/
  bounded : ∀ a, s.cfg.pbCap ≤ a → Memory.read s.pb a = none
  /-- Rules R16, R25: `dec_payload` is physically held in PB. -/
  holds : s.decState = .readPayload ∨ s.decState = .verifyMessageChecksum →
    Memory.readFirst s.pb s.decPayload.length = s.decPayload.map some

/-- The decoder stands where rule R77 lets a frame begin. -/
def scanning (s : State) : Bool := decide (s.decState = .awaitSync0) || decide (s.decState = .awaitSync1)

/-- The state after a FEED of `b` answered DISCARDED(cause), as rule R66 and spec/60_exceptions.md rule R94 describe
it, field by field: claims compare the machine's own resynchronisation with this. -/
def afterDiscard (cause : Cause) (b : Byte) (s : State) : State :=
  { s with
    decState     := if b = 0xFF then .awaitSync1 else .awaitSync0
    decLength    := 0
    decTopic     := 0
    decIndex     := 0
    decPayload   := []
    idleTicks    := 0
    discardCount := s.discardCount + 1
    lastCause    := cause
    responses    := s.responses ++ [.discarded cause] }

/-- The state with the decoder idle and a response given: what MESSAGE, a timeout and RESET leave of the decoder's
fields (rules R66, R73, R84, R86), field by field. -/
def afterIdle (r : Response) (s : State) : State :=
  { s with
    decState     := .awaitSync0
    decLength    := 0
    decTopic     := 0
    decIndex     := 0
    decPayload   := []
    idleTicks    := 0
    responses    := s.responses ++ [r] }

/-! ### Runs of commands -/

/-- The commands of a list performed one after the other (rule R35), stopping at the first that gives no next state. -/
def runInstrs : List Instr → State → Host.Outcome State Fault Refusal
  | [], s => .next s
  | i :: is, s =>
    match exec i s with
    | .next s'    => runInstrs is s'
    | .fault r    => .fault r
    | .refused r  => .refused r

/-- Whether a command is a FEED. -/
def isFeed : Instr → Bool
  | .feed _ => true
  | _ => false

/-- The bytes a list of commands feeds, in order. -/
def bytesFed : List Instr → List Byte
  | [] => []
  | .feed b :: is => b :: bytesFed is
  | .tick :: is => bytesFed is
  | .reset :: is => bytesFed is
  | .rdreg _ :: is => bytesFed is
  | .encode _ _ :: is => bytesFed is

/-- The responses to the FEEDs of a list of commands, given the responses to all of them. -/
def feedResponses : List Instr → List Response → List Response
  | i :: is, r :: rs => if isFeed i then r :: feedResponses is rs else feedResponses is rs
  | _, _ => []

/-- The responses of a run that started in `s` and ended in `t` (responses are only ever added at the end). -/
def newResponses (s t : State) : List Response := t.responses.drop s.responses.length

/-- The byte sequence holds no 0xFF immediately followed by 0xFD (rule R77's garbage). -/
def syncFree : List Byte → Bool
  | b0 :: b1 :: bs => !(b0 == sync0 && b1 == sync1) && syncFree (b1 :: bs)
  | _ => true

/-- A response of rule R77 item 1: PENDING or DISCARDED(1). -/
def isGarbageResponse : Response → Bool
  | .pending => true
  | .discarded .badSync1 => true
  | _ => false

/-- The bytes of the frame in progress that the decoder's fields hold, the sync pair first: what it has taken since it
was last idle (rules R67-R72). -/
def heldBytes (s : State) : List Byte :=
  match s.decState with
  | .awaitSync0           => []
  | .awaitSync1           => [sync0]
  | .readLength           => [sync0, sync1] ++ if s.decIndex = 0 then [] else [lo s.decLength]
  | .verifyLengthChecksum => [sync0, sync1, lo s.decLength, hi s.decLength]
  | .readTopicId          =>
    [sync0, sync1, lo s.decLength, hi s.decLength, lck s.decLength] ++ if s.decIndex = 0 then [] else [lo s.decTopic]
  | .readPayload | .verifyMessageChecksum =>
    [sync0, sync1, lo s.decLength, hi s.decLength, lck s.decLength, lo s.decTopic, hi s.decTopic] ++ s.decPayload

/-- The byte the next step feeds, if it feeds one: that of the command at the head of the port. -/
def fedByStep (s : State) : List Byte :=
  match s.port with
  | [] => []
  | c :: _ =>
    match decode c with
    | .ok i    => bytesFed [i]
    | .error _ => []

end Sys2Proof.Machine
end

