-- ==== Sys2Proof/Certificates/Slice0/Obligations.lean ====
section
/-!
DEFINITION. The statements for the provers. Each docstring names the rules of spec/ it formalises. A statement that
runs commands says with `∃ u, runInstrs … = .next u` that the run completes, and what its end state holds.
-/

open Sys2Proof Sys2Proof.Machine

/-! ### Command words (spec/30_encoding.md rules R48-R51, R53-R55) -/

/-- Rules R48-R50: decoding an encoded well-formed instruction gives it back, and every transaction the decoder accepts
is the encoding of the well-formed instruction it gives: no bit of a word is dropped. -/
def Obligations.DecodeEncodeRoundTrip : Prop :=
  (∀ i : Instr, i.wellFormed = true → decode (encode i) = .ok i) ∧
  (∀ (c : Command) (i : Instr), decode c = .ok i → i.wellFormed = true ∧ encode i = c)

/-- Rules R51 and R88: the decoder refuses exactly the commands rule R51 calls illegal, and a step on one answers ILLEGAL
and changes nothing else. -/
def Obligations.IllegalCommandsOnlyAnswer : Prop :=
  ∀ (c : Command),
    (c.illegal = true ↔ ∀ i, decode c ≠ .ok i) ∧
    (c.illegal = true → ∀ (s : State) (rest : List Command), s.port = c :: rest →
      step s = .next { s with port := rest, responses := s.responses ++ [.illegal] })

/-- Rule R50 and spec/opcode_table.json: a transaction that decodes lies in exactly one row of the table, that of the
instruction it decodes to. -/
def Obligations.DecodedWordLiesInItsTableRow : Prop :=
  ∀ (c : Command) (i : Instr), decode c = .ok i →
    (tableRows.filter fun row => row.covers c.word).map TableRow.mnemonic = [i.mnemonic]

/-- Vectors V-W1 of spec/95_test_vectors.md: words written out from rule R50, and what they decode to. -/
def Obligations.SampleWordsDecode : Prop :=
  decode { word := 0x010000FF, vector := [] } = .ok (.feed 0xFF) ∧
  decode { word := 0x02000000, vector := [] } = .ok .tick ∧
  decode { word := 0x03000000, vector := [] } = .ok .reset ∧
  decode { word := 0x04000009, vector := [] } = .ok (.rdreg 0x09) ∧
  decode { word := 0x10000005, vector := [0x01, 0x02, 0x03] } = .ok (.encode 0x0005 [0x01, 0x02, 0x03])

/-- Rule R28: a word carried over a byte-wide link, least significant byte first, decodes as the word does. That the
bytes after the word are the vector is the model's choice (notes/assumptions/4.md). -/
def Obligations.LinkBytesDecodeAsTheWord : Prop :=
  ∀ c : Command, decodeBytes (bytesOfWord c.word ++ c.vector) = decode c

/-- Rules R52 and R53: the header word of each kind of response, and what goes beside it. -/
def Obligations.ResponseHeaders : Prop :=
  Response.header .ok = 0x00000000 ∧ Response.header .pending = 0x01000000 ∧
  (∀ t p, (Response.message t p).header.toNat = 0x02000000 + t.toNat ∧
    (Response.message t p).byteVector = p) ∧
  (∀ c : Cause, (Response.discarded c).header.toNat = 0x03000000 + 0x10000 * c.code.toNat) ∧
  (∀ c : Cause, (Response.timedOut c).header.toNat = 0x04000000 + 0x10000 * c.code.toNat) ∧
  (∀ bs, (Response.frame bs).header = 0x05000000 ∧ (Response.frame bs).byteVector = bs) ∧
  Response.header .payloadTooLarge = 0x06000000 ∧
  (∀ v, (Response.regValue v).header = 0x07000000 ∧ (Response.regValue v).valueWord = some v) ∧
  Response.header .illegal = 0xFF000000

/-- Rules R54 and R55: lines of the assembler syntax, one of each form, and what they assemble to. -/
def Obligations.SampleLinesAssemble : Prop :=
  assembleLine "FEED  0xFF   ; a byte".toList = some [.feed 0xFF] ∧
  assembleLine "TICK".toList = some [.tick] ∧
  assembleLine "RESET".toList = some [.reset] ∧
  assembleLine "RDREG DISCARD_COUNT".toList = some [.rdreg 0x04] ∧
  assembleLine "ENCODE 5, [0x01, 2, 3]".toList = some [.encode 5 [1, 2, 3]] ∧
  assembleLine "FEEDS FF FD".toList = some [.feed 0xFF, .feed 0xFD] ∧
  assembleLine "WAIT 2".toList = some [.tick, .tick]

/-! ### Steps, the port and reset -/

/-- Rules R4 and R35: when the command the port accepts next decodes to an instruction, a step is that instruction
performed on the state with the command accepted. -/
def Obligations.StepRunsTheDecodedInstruction : Prop :=
  ∀ (s : State) (c : Command) (rest : List Command) (i : Instr),
    s.port = c :: rest → decode c = .ok i → step s = exec i { s with port := rest }

/-- Rules R89, R52 and R106: in every state every command, legal or not, ends in a next state with exactly one response
added after those already given, which do not change; no command faults, halts or stalls the block, and the commands
behind it stay waiting. -/
def Obligations.EveryCommandAnswersExactlyOnce : Prop :=
  ∀ (s : State) (c : Command) (rest : List Command), s.port = c :: rest →
    ∃ (t : State) (r : Response), step s = .next t ∧ t.port = rest ∧ t.responses = s.responses ++ [r]

/-- The MODEL's choice (notes/assumptions/6.md): with no command presented a step leaves the state as it is. -/
def Obligations.WaitsWhenNoCommandIsPresented : Prop :=
  ∀ s : State, s.port = [] → step s = .next s

/-- Rule R35: the block performs the commands on its port one at a time, in order, each on the state the one before it
left. -/
def Obligations.PortRunIsCommandSequence : Prop :=
  ∀ (is : List Instr) (rest : List Command) (s : State), (∀ i ∈ is, i.wellFormed = true) →
    s.port = is.map encode ++ rest →
    ∃ u : State, runInstrs is { s with port := rest } = .next u ∧
      Host.Core.run Sys2Proof.core is.length s = .next u

/-- Rule R35 and the spec's own inference R75: presenting a sequence of commands in two chunks or in one gives the same responses and the same
end state, for any transactions and any chunk boundary. -/
def Obligations.ChunkBoundariesDoNotMatter : Prop :=
  ∀ (cs ds : List Command) (s : State), s.port = [] →
    ∃ u v : State,
      Host.Core.run Sys2Proof.core cs.length { s with port := cs } = .next u ∧
      Host.Core.run Sys2Proof.core ds.length { u with port := ds } = .next v ∧
      Host.Core.run Sys2Proof.core (cs.length + ds.length) { s with port := cs ++ ds } = .next v

/-- Rules R5 and R102: no step changes a configuration parameter. -/
def Obligations.ConfigurationNeverChanges : Prop :=
  ∀ s t : State, step s = .next t → t.cfg = s.cfg

/-- Rules R24 and R102: power-on reset, under any configuration, gives every field of rule R9 the value of rule R24, and
`State.reset` is that state at the parameters' default values (rule R5). -/
def Obligations.PowerOnResetValues : Prop :=
  (∀ c : Config,
    let s := State.resetWith c
    s.decState = .awaitSync0 ∧ s.decLength = 0 ∧ s.decTopic = 0 ∧ s.decIndex = 0 ∧ s.decPayload = [] ∧
    s.idleTicks = 0 ∧ s.discardCount = 0 ∧ s.timeoutCount = 0 ∧ s.lastCause = .noCause) ∧
  State.reset = State.resetWith { maxPayload := 2048, timeoutTicks := 30 }

/-! ### Invariants (spec/10_state.md rule R23, spec/20_memory.md rules R25, R26) -/

/-- The spec's own inference R23 at reset, for every configuration, and with it the payload buffer's invariant (rules R16,
R25 and the spec's own inference R26). The buffer's clause is the MODEL's choice: rule R24 leaves the buffer's contents
unspecified at reset, and the model lists nothing there (notes/assumptions/5.md). -/
def Obligations.ResetMeetsTheInvariants : Prop :=
  ∀ c : Config, Inv (State.resetWith c) ∧ BufferInv (State.resetWith c)

/-- The spec's own inference R23: every step keeps its nine items (with what rules R14-R16 say of VerifyLengthChecksum:
notes/assumptions/12.md), from every state that meets them. -/
def Obligations.StepKeepsTheInvariant : Prop :=
  ∀ s t : State, Inv s → step s = .next t → Inv t

/-- Rules R16 and R25 and the spec's own inference R26: every step keeps the payload buffer in canonical form, inside PB[0 .. MAX_PAYLOAD-1], and
equal to dec_payload on the bytes of the current frame. -/
def Obligations.StepKeepsTheBufferInvariant : Prop :=
  ∀ s t : State, Inv s → BufferInv s → step s = .next t → BufferInv t

/-! ### Checksums (spec/40_checksum.md) -/

/-- Rule R58: LCK is 255 minus the length mod 256, and is computed from the low byte of the length. -/
def Obligations.LengthChecksumIsComplement : Prop :=
  ∀ L : Half, (lck L).toNat = 255 - L.toNat % 256 ∧ lck L = cpl (lo L).toNat

/-- Rule R59: MCK is 255 minus the sum of the two topic bytes and the payload bytes, mod 256. -/
def Obligations.MessageChecksumIsComplementOfTheSum : Prop :=
  ∀ (t : Half) (p : List Byte),
    (mck t p).toNat = 255 - (t.toNat % 256 + t.toNat / 256 + (p.map BitVec.toNat).sum) % 256 ∧
    mck t p = cpl ((lo t).toNat + (hi t).toNat + (p.map BitVec.toNat).sum)

/-- The spec's own inferences R56, R57 and R64: cpl is the bitwise complement of a byte; reducing a sum after each
addition, as a running sum would, gives the sum reduced once, and so the same MCK. -/
def Obligations.RunningSumGivesTheSameChecksum : Prop :=
  (∀ x : Nat, (cpl x).toNat = 255 - x % 256 ∧ cpl x = BitVec.ofNat 8 x ^^^ 0xFF) ∧
  (∀ s : List Byte, (sum8 s).toNat = (s.map BitVec.toNat).sum % 256 ∧ sum8 s = s.foldl (· + ·) 0) ∧
  (∀ (t : Half) (p : List Byte), mck t p = (p.foldl (· + ·) (lo t + hi t)) ^^^ 0xFF)

/-- The spec's own inference R60: for every topic_id and payload exactly one byte is a valid message checksum, and validity is the same as the
covered bytes and the checksum summing to 255 mod 256. -/
def Obligations.ExactlyOneValidMessageChecksum : Prop :=
  ∀ (t : Half) (p : List Byte),
    (∃! c : Byte, msgValid t p c = true) ∧
    (∀ c : Byte, msgValid t p c = true ↔ c = mck t p) ∧
    (∀ c : Byte, msgValid t p c = true ↔
      (t.toNat % 256 + t.toNat / 256 + (p.map BitVec.toNat).sum + c.toNat) % 256 = 255)

/-- Rule R61: the three verdicts of LEN_CHECK, the checksum tested first. -/
def Obligations.LengthValidatorVerdicts : Prop :=
  ∀ (maxPayload L : Half) (c : Byte),
    (c.toNat ≠ 255 - L.toNat % 256 → lenCheck maxPayload L c = .badLengthChecksum) ∧
    (c.toNat = 255 - L.toNat % 256 → maxPayload.toNat < L.toNat →
      lenCheck maxPayload L c = .oversizedLength) ∧
    (c.toNat = 255 - L.toNat % 256 → L.toNat ≤ maxPayload.toNat → lenCheck maxPayload L c = .ok)

/-- The spec's own inference R63 item 1: flipping one bit of any byte the message checksum covers, or of the checksum, makes a valid message
invalid; so does flipping one bit of the low length byte or of the length checksum. -/
def Obligations.SingleBitErrorsAreDetected : Prop :=
  (∀ (t : Half) (p : List Byte) (c : Byte), msgValid t p c = true →
    (∀ k < 8, msgValid t p (c ^^^ (1#8 <<< k)) = false) ∧
    (∀ k < 16, msgValid (t ^^^ (1#16 <<< k)) p c = false) ∧
    (∀ (p1 p2 : List Byte) (b : Byte), p = p1 ++ b :: p2 →
      ∀ k < 8, msgValid t (p1 ++ (b ^^^ (1#8 <<< k)) :: p2) c = false)) ∧
  (∀ (maxPayload L : Half) (k : Nat), k < 8 →
    lenCheck maxPayload L (lck L ^^^ (1#8 <<< k)) = .badLengthChecksum ∧
    lenCheck maxPayload (L ^^^ (1#16 <<< k)) (lck L) = .badLengthChecksum)

/-- The spec's own inferences R63 items 2 to 4 and R43: what the checksums miss. Any reordering of the covered bytes keeps MCK, and so do
any changes that cancel mod 256; a change to the high length byte keeps LCK. -/
def Obligations.ChecksumBlindSpots : Prop :=
  (∀ (t t' : Half) (p p' : List Byte), (lo t :: hi t :: p).Perm (lo t' :: hi t' :: p') → mck t p = mck t' p') ∧
  (∀ (t t' : Half) (p p' : List Byte),
    mck t p = mck t' p' ↔ sum8 (lo t :: hi t :: p) = sum8 (lo t' :: hi t' :: p')) ∧
  (∀ L L' : Half, lo L = lo L' → lck L = lck L')

/-! ### FEED (spec/41_decoder.md): one statement per arm. Each gives the whole next state, so each is FEED's completion
statement for the states of its arm, and together they cover every state. -/

/-- Rule R67, ARM_SYNC0. -/
def Obligations.FeedInAwaitSync0 : Prop :=
  ∀ (b : Byte) (s : State), s.decState = .awaitSync0 →
    exec (.feed b) s = .next { s with
      idleTicks := 0
      decState  := if b = 0xFF then .awaitSync1 else .awaitSync0
      responses := s.responses ++ [.pending] }

/-- Rule R68, ARM_SYNC1. -/
def Obligations.FeedInAwaitSync1 : Prop :=
  ∀ (b : Byte) (s : State), s.decState = .awaitSync1 →
    (b = 0xFD → exec (.feed b) s = .next { s with
      idleTicks := 0
      decState  := .readLength
      decIndex  := 0
      responses := s.responses ++ [.pending] }) ∧
    (b ≠ 0xFD → exec (.feed b) s = .next (afterDiscard .badSync1 b s))

/-- Rule R69, ARM_LEN: the low byte first, then the high byte, each leaving the other as it is. -/
def Obligations.FeedInReadLength : Prop :=
  ∀ (b : Byte) (s : State), s.decState = .readLength →
    (s.decIndex = 0 → exec (.feed b) s = .next { s with
      idleTicks := 0
      decLength := BitVec.ofNat 16 (s.decLength.toNat / 256 * 256 + b.toNat)
      decIndex  := 1
      responses := s.responses ++ [.pending] }) ∧
    (s.decIndex ≠ 0 → exec (.feed b) s = .next { s with
      idleTicks := 0
      decLength := BitVec.ofNat 16 (b.toNat * 256 + s.decLength.toNat % 256)
      decIndex  := 0
      decState  := .verifyLengthChecksum
      responses := s.responses ++ [.pending] })

/-- Rule R70, ARM_LCK, with the verdicts of rule R61 spelled out. -/
def Obligations.FeedInVerifyLengthChecksum : Prop :=
  ∀ (b : Byte) (s : State), s.decState = .verifyLengthChecksum →
    (b.toNat ≠ 255 - s.decLength.toNat % 256 →
      exec (.feed b) s = .next (afterDiscard .badLengthChecksum b s)) ∧
    (b.toNat = 255 - s.decLength.toNat % 256 → s.cfg.maxPayload.toNat < s.decLength.toNat →
      exec (.feed b) s = .next (afterDiscard .oversizedLength b s)) ∧
    (b.toNat = 255 - s.decLength.toNat % 256 → s.decLength.toNat ≤ s.cfg.maxPayload.toNat →
      exec (.feed b) s = .next { s with
        idleTicks := 0
        decState  := .readTopicId
        decIndex  := 0
        responses := s.responses ++ [.pending] })

/-- Rule R71, ARM_TOPIC: the low byte first; with length 0 ReadPayload is skipped. -/
def Obligations.FeedInReadTopicId : Prop :=
  ∀ (b : Byte) (s : State), s.decState = .readTopicId →
    (s.decIndex = 0 → exec (.feed b) s = .next { s with
      idleTicks := 0
      decTopic  := BitVec.ofNat 16 (s.decTopic.toNat / 256 * 256 + b.toNat)
      decIndex  := 1
      responses := s.responses ++ [.pending] }) ∧
    (s.decIndex ≠ 0 → exec (.feed b) s = .next { s with
      idleTicks := 0
      decTopic  := BitVec.ofNat 16 (b.toNat * 256 + s.decTopic.toNat % 256)
      decIndex  := 0
      decState  := if s.decLength = 0 then .verifyMessageChecksum else .readPayload
      responses := s.responses ++ [.pending] })

/-- Rule R72, ARM_PAYLOAD, and the frame of its store: the byte goes into the payload buffer at dec_index and nowhere
else, and at the end of dec_payload. In the states of rule R23, whose index stays below the length. -/
def Obligations.FeedInReadPayload : Prop :=
  ∀ (b : Byte) (s : State), s.decState = .readPayload → Inv s →
    ∃ m : Memory,
      Memory.read m s.decIndex.toNat = some b ∧
      (∀ a, a ≠ s.decIndex.toNat → Memory.read m a = Memory.read s.pb a) ∧
      exec (.feed b) s = .next { s with
        idleTicks  := 0
        pb         := m
        decPayload := s.decPayload ++ [b]
        decIndex   := if s.decIndex.toNat + 1 = s.decLength.toNat then 0 else s.decIndex + 1
        decState   := if s.decIndex.toNat + 1 = s.decLength.toNat then .verifyMessageChecksum else .readPayload
        responses  := s.responses ++ [.pending] }

/-- Rule R73, ARM_MCK, with the checksum of rule R59 spelled out. -/
def Obligations.FeedInVerifyMessageChecksum : Prop :=
  ∀ (b : Byte) (s : State), s.decState = .verifyMessageChecksum →
    let expected := 255 - (s.decTopic.toNat % 256 + s.decTopic.toNat / 256 + (s.decPayload.map BitVec.toNat).sum) % 256
    (b.toNat = expected →
      exec (.feed b) s = .next (afterIdle (.message s.decTopic s.decPayload) s)) ∧
    (b.toNat ≠ expected → exec (.feed b) s = .next (afterDiscard .badMessageChecksum b s))

/-- Rules R31 and R65: FEED's frame. It answers PENDING, MESSAGE or DISCARDED and nothing else; it leaves the
configuration, the port and timeout_count alone; discard_count and last_cause too unless it answers DISCARDED; and the
payload buffer at every address but dec_index in ReadPayload. It always leaves idle_ticks at 0. -/
def Obligations.FeedFrame : Prop :=
  ∀ (b : Byte) (s : State), ∃ (t : State) (r : Response),
    exec (.feed b) s = .next t ∧
    t.responses = s.responses ++ [r] ∧
    (r = .pending ∨ (∃ m p, r = .message m p) ∨ (∃ c, r = .discarded c)) ∧
    t.cfg = s.cfg ∧ t.port = s.port ∧ t.timeoutCount = s.timeoutCount ∧ t.idleTicks = 0 ∧
    ((∀ c, r ≠ .discarded c) → t.discardCount = s.discardCount ∧ t.lastCause = s.lastCause) ∧
    (∀ a, ¬(s.decState = .readPayload ∧ a = s.decIndex.toNat) → Memory.read t.pb a = Memory.read s.pb a)

/-- The spec's own inference R74: in ReadLength, ReadTopicId and ReadPayload FEED takes every byte as data. No byte value is looked for: the
decoder goes to the same state whichever byte comes, answers PENDING, and never starts scanning again. -/
def Obligations.NoSyncSearchInsideAFrame : Prop :=
  ∀ (b : Byte) (s : State),
    s.decState = .readLength ∨ s.decState = .readTopicId ∨ s.decState = .readPayload →
    ∃ t : State, exec (.feed b) s = .next t ∧ t.responses = s.responses ++ [.pending] ∧
      t.decState ≠ .awaitSync0 ∧ t.decState ≠ .awaitSync1 ∧
      (∀ b' : Byte, ∃ t' : State, exec (.feed b') s = .next t' ∧
        t'.decState = t.decState ∧ t'.decIndex = t.decIndex)

/-! ### TICK, RESET, RDREG (spec/43_timer_control.md) -/

/-- Rule R84: TICK's word and its three outcomes, each the whole next state; and so its frame: the configuration, the
port, the payload buffer and discard_count are never changed. -/
def Obligations.TickOutcomes : Prop :=
  decode { word := 0x02000000, vector := [] } = .ok .tick ∧
  ∀ s : State,
    (s.decState = .awaitSync0 → exec .tick s = .next { s with responses := s.responses ++ [.ok] }) ∧
    (s.decState ≠ .awaitSync0 → s.cfg.timeoutTicks.toNat ≤ s.idleTicks.toNat →
      exec .tick s = .next { afterIdle (.timedOut .timeout) s with
        timeoutCount := s.timeoutCount + 1
        lastCause    := .timeout }) ∧
    (s.decState ≠ .awaitSync0 → s.idleTicks.toNat < s.cfg.timeoutTicks.toNat →
      exec .tick s = .next { s with
        idleTicks := BitVec.ofNat 16 (s.idleTicks.toNat + 1)
        responses := s.responses ++ [.ok] })

/-- Rules R17 and R84: mid-frame, with no TICK since the last FEED, each of the first TIMEOUT_TICKS TICKs answers OK and
is counted in idle_ticks, and the next one times the frame out. -/
def Obligations.TimeoutAtTickAfterTimeoutTicks : Prop :=
  ∀ s : State, s.decState ≠ .awaitSync0 → s.idleTicks = 0 →
    (∀ n ≤ s.cfg.timeoutTicks.toNat, runInstrs (wait n) s = .next { s with
      idleTicks := BitVec.ofNat 16 n
      responses := s.responses ++ List.replicate n .ok }) ∧
    runInstrs (wait (s.cfg.timeoutTicks.toNat + 1)) s =
      .next { afterIdle (.timedOut .timeout) s with
        responses    := s.responses ++ List.replicate s.cfg.timeoutTicks.toNat .ok ++ [.timedOut .timeout]
        timeoutCount := s.timeoutCount + 1
        lastCause    := .timeout }

/-- The spec's own inference R85, with rule R93: let the TICKs after the last byte arrive at times phase, phase + P, phase + 2P, ... with phase < P (a
TICK at the instant of the byte, phase 0, comes after it). The first TIMED_OUT comes at least TIMEOUT_TICKS · P and less than (TIMEOUT_TICKS + 1) · P after the byte. -/
def Obligations.TimeoutRealTimeWindow : Prop :=
  ∀ (s : State) (P phase : Nat), phase < P → s.decState ≠ .awaitSync0 → s.idleTicks = 0 →
    ∃ (k : Nat) (u : State),
      runInstrs (wait (k + 1)) s = .next u ∧
      (newResponses s u)[k]? = some (.timedOut .timeout) ∧
      (∀ j < k, (newResponses s u)[j]? = some .ok) ∧
      s.cfg.timeoutTicks.toNat * P ≤ phase + k * P ∧
      phase + k * P < (s.cfg.timeoutTicks.toNat + 1) * P

/-- The spec's own inferences R85 and R109: mid-frame after a FEED, a gap of at most TIMEOUT_TICKS TICKs changes nothing the next byte does;
a longer gap always drops the partial frame, counts one timeout and no discard, and leaves the next byte to a decoder in
AwaitSync0. -/
def Obligations.GapsSplitAFrameOnlyBeyondTimeoutTicks : Prop :=
  ∀ (s : State) (n : Nat) (b : Byte), s.decState ≠ .awaitSync0 → s.idleTicks = 0 →
    (n ≤ s.cfg.timeoutTicks.toNat →
      ∃ u : State, exec (.feed b) s = .next u ∧
        runInstrs (wait n ++ [.feed b]) s = .next { u with
          responses := s.responses ++ List.replicate n .ok ++ newResponses s u }) ∧
    (s.cfg.timeoutTicks.toNat < n →
      runInstrs (wait n ++ [.feed b]) s = .next { afterIdle .pending s with
        decState     := if b = 0xFF then .awaitSync1 else .awaitSync0
        timeoutCount := s.timeoutCount + 1
        lastCause    := .timeout
        responses    := s.responses ++ List.replicate s.cfg.timeoutTicks.toNat .ok ++ [.timedOut .timeout] ++
          List.replicate (n - s.cfg.timeoutTicks.toNat - 1) .ok ++ [.pending] })

/-- Rules R24, R86 and R102: RESET's word; it gives every field of rule R9 the value of power-on reset and answers OK. Its
frame: the configuration, the port and the responses given before stay, and so does every byte of the payload buffer,
which only FEED writes (rule R25). -/
def Obligations.ResetGivesTheResetState : Prop :=
  decode { word := 0x03000000, vector := [] } = .ok .reset ∧
  ∀ s : State, exec .reset s = .next { State.resetWith s.cfg with
    port      := s.port
    pb        := s.pb
    responses := s.responses ++ [.ok] }

/-- The spec's own inference R33: two RESETs leave the same state as one, but for the second response. -/
def Obligations.ResetIsIdempotent : Prop :=
  ∀ s : State, ∃ t : State, exec .reset s = .next t ∧
    exec .reset t = .next { t with responses := t.responses ++ [.ok] }

/-- Rules R21 and R87: RDREG's words; RDREG of each listed register answers its value, zero-extended to 32 bits, and RDREG
of any other number answers ILLEGAL; nothing else changes. -/
def Obligations.RdregReadsTheRegisterMap : Prop :=
  (∀ r : Byte, r.toNat ≤ 9 →
    decode { word := BitVec.ofNat 32 (0x04000000 + r.toNat), vector := [] } = .ok (.rdreg r)) ∧
  ∀ s : State,
    let answers := fun (r : Byte) (v : Nat) =>
      exec (.rdreg r) s = .next { s with responses := s.responses ++ [.regValue (BitVec.ofNat 32 v)] }
    answers 0x00 s.decState.code.toNat ∧
    answers 0x01 s.decLength.toNat ∧
    answers 0x02 s.decTopic.toNat ∧
    answers 0x03 s.decIndex.toNat ∧
    answers 0x04 s.discardCount.toNat ∧
    answers 0x05 s.timeoutCount.toNat ∧
    answers 0x06 s.lastCause.code.toNat ∧
    answers 0x07 s.idleTicks.toNat ∧
    answers 0x08 s.cfg.maxPayload.toNat ∧
    answers 0x09 s.cfg.timeoutTicks.toNat ∧
    (∀ r : Byte, 9 < r.toNat →
      exec (.rdreg r) s = .next { s with responses := s.responses ++ [.illegal] })

/-- Rules R12 and R90: the codes of the decoder's states and of the causes. -/
def Obligations.StateAndCauseCodes : Prop :=
  [ParserState.awaitSync0, .awaitSync1, .readLength, .verifyLengthChecksum, .readTopicId, .readPayload,
    .verifyMessageChecksum].map (fun st => st.code.toNat) = [0, 1, 2, 3, 4, 5, 6] ∧
  [Cause.noCause, .badSync1, .badLengthChecksum, .oversizedLength, .badMessageChecksum, .timeout].map
    (fun c => c.code.toNat) = [0, 1, 2, 3, 4, 5]

/-! ### ENCODE (spec/42_encoder.md) -/

/-- Rules R40 and R80: ENCODE's word, and its response: the frame of rule R40, byte by byte, or PAYLOAD_TOO_LARGE; a
function of the operands and MAX_PAYLOAD alone. Nothing else changes: no register, no byte of the payload buffer. -/
def Obligations.EncodeBuildsTheFrame : Prop :=
  ∀ (t : Half) (p : List Byte) (s : State),
    decode { word := BitVec.ofNat 32 (0x10000000 + t.toNat), vector := p } = .ok (.encode t p) ∧
    (p.length ≤ s.cfg.maxPayload.toNat →
      ∃ bytes : List Byte,
        exec (.encode t p) s = .next { s with responses := s.responses ++ [.frame bytes] } ∧
        bytes.length = p.length + 8 ∧
        bytes.map BitVec.toNat =
          [0xFF, 0xFD, p.length % 256, p.length / 256, 255 - p.length % 256, t.toNat % 256, t.toNat / 256] ++
          p.map BitVec.toNat ++
          [255 - (t.toNat % 256 + t.toNat / 256 + (p.map BitVec.toNat).sum) % 256]) ∧
    (s.cfg.maxPayload.toNat < p.length →
      exec (.encode t p) s = .next { s with responses := s.responses ++ [.payloadTooLarge] })

/-- The spec's own inferences R33, R81 and R83: an RDREG or an ENCODE put anywhere into a command sequence changes nothing but its own
response: the end state and every other command's response are the same. -/
def Obligations.ReadsAndEncodesAreInvisible : Prop :=
  ∀ (is1 is2 : List Instr) (i : Instr) (s : State),
    ((∃ r, i = .rdreg r) ∨ (∃ t p, i = .encode t p)) →
    ∃ (u : State) (r : Response),
      runInstrs (is1 ++ is2) s = .next u ∧
      runInstrs (is1 ++ i :: is2) s = .next { u with
        responses := u.responses.take (s.responses.length + is1.length) ++
          r :: u.responses.drop (s.responses.length + is1.length) } ∧
      (∀ t p, i = .encode t p → r = encodeResponse s.cfg.maxPayload t p)

/-! ### Diagnostics (spec/10_state.md rules R18-R20) -/

/-- Rules R18, R19 and R20: which command changes each diagnostic field, and how, said by its response. -/
def Obligations.DiagnosticsFollowTheResponses : Prop :=
  ∀ (i : Instr) (s : State), ∃ (t : State) (r : Response),
    exec i s = .next t ∧ t.responses = s.responses ++ [r] ∧
    (i ≠ .reset →
      t.discardCount = s.discardCount + (if r.isDiscarded then 1 else 0) ∧
      t.timeoutCount = s.timeoutCount + (if r.isTimedOut then 1 else 0) ∧
      ((∀ c, r ≠ .discarded c ∧ r ≠ .timedOut c) → t.lastCause = s.lastCause)) ∧
    (∀ c, r = .discarded c → t.lastCause = c ∧ c ≠ .noCause ∧ c ≠ .timeout ∧ ∃ b, i = .feed b) ∧
    (∀ c, r = .timedOut c → t.lastCause = c ∧ c = .timeout ∧ i = .tick) ∧
    (i = .reset → t.discardCount = 0 ∧ t.timeoutCount = 0 ∧ t.lastCause = .noCause)

/-! ### The codec as a whole -/

/-- The spec's own inference R82: what ENCODE frames, the decoder gives back. From AwaitSync0 the frame's bytes give PENDING for each byte but
the last and then MESSAGE(t, p), the diagnostics unchanged; from AwaitSync1 the first byte gives DISCARDED(1) instead. -/
def Obligations.DecoderInvertsEncoder : Prop :=
  ∀ (s e : State) (t : Half) (p bytes : List Byte), Inv s →
    exec (.encode t p) s = .next e → newResponses s e = [.frame bytes] →
    (s.decState = .awaitSync0 →
      ∃ u : State, runInstrs (feeds bytes) s = .next u ∧ u.decState = .awaitSync0 ∧
        newResponses s u = List.replicate (p.length + 7) .pending ++ [.message t p] ∧
        u.discardCount = s.discardCount ∧ u.lastCause = s.lastCause) ∧
    (s.decState = .awaitSync1 →
      ∃ u : State, runInstrs (feeds bytes) s = .next u ∧ u.decState = .awaitSync0 ∧
        newResponses s u =
          .discarded .badSync1 :: List.replicate (p.length + 6) .pending ++ [.message t p] ∧
        u.discardCount = s.discardCount + 1 ∧ u.lastCause = .badSync1)

/-- The spec's own inference R77, the resynchronisation guarantee. Garbage with no 0xFF immediately before a 0xFD leaves the decoder scanning,
and the frame after it is decoded on its last byte. From AwaitSync1 the garbage must not begin with 0xFD, which would
complete a sync pair begun before it: rule R77 does not say so, and is not true there without it
(notes/assumptions/7.md). -/
def Obligations.ResynchronisationGuarantee : Prop :=
  ∀ (s : State) (garbage : List Byte) (t : Half) (p : List Byte), Inv s → scanning s = true →
    syncFree garbage = true → (s.decState = .awaitSync1 → garbage.head? ≠ some 0xFD) →
    p.length ≤ s.cfg.maxPayload.toNat →
    ∃ u v : State,
      runInstrs (feeds garbage) s = .next u ∧ scanning u = true ∧
      (newResponses s u).all isGarbageResponse = true ∧
      runInstrs (feeds (frameBytes t p)) u = .next v ∧
      newResponses u v =
        (if u.decState = .awaitSync1 then .discarded .badSync1 else .pending) ::
          List.replicate (p.length + 6) .pending ++ [.message t p]

/-- The spec's own inference R76: all or nothing. Whatever commands are performed from an idle decoder, a MESSAGE answers only a byte that
completes a whole valid frame of that topic_id and payload: the bytes fed end in that frame, and its payload is within
MAX_PAYLOAD. -/
def Obligations.MessageOnlyAfterAWholeValidFrame : Prop :=
  ∀ (s u : State) (is : List Instr) (t : Half) (p : List Byte), Inv s → s.decState = .awaitSync0 →
    runInstrs is s = .next u → (newResponses s u).getLast? = some (.message t p) →
    p.length ≤ s.cfg.maxPayload.toNat ∧ ∃ before : List Byte, bytesFed is = before ++ frameBytes t p

/-- The spec's own inference R82, under every interleaving rule R36 leaves open: when the feeder's bytes are the frame of an ENCODE, every
agent issues only its own commands (rule R98), no controller issues RESET and no TICK times out, the frame's bytes are
answered PENDING but the last, which is answered MESSAGE(t, p), whatever TICKs, RDREGs and ENCODEs come between them. From
AwaitSync1 the first byte is answered DISCARDED(1) instead. -/
def Obligations.FrameDecodesUnderEveryInterleaving : Prop :=
  ∀ (s : State) (sch : Schedule) (t : Half) (p bytes : List Byte), Inv s → scanning s = true →
    encodeResponse s.cfg.maxPayload t p = .frame bytes → sch.obeysRoles = true →
    sch.commandsOf .rxFeeder = feeds bytes → (∀ ai ∈ sch, ai.2 ≠ .reset) →
    ∃ u : State, runInstrs sch.commands s = .next u ∧
      ((∀ c, Response.timedOut c ∉ newResponses s u) →
        u.decState = .awaitSync0 ∧ u.timeoutCount = s.timeoutCount ∧
        (s.decState = .awaitSync0 →
          feedResponses sch.commands (newResponses s u) =
            List.replicate (p.length + 7) .pending ++ [.message t p] ∧
          u.discardCount = s.discardCount ∧ u.lastCause = s.lastCause) ∧
        (s.decState = .awaitSync1 →
          feedResponses sch.commands (newResponses s u) =
            .discarded .badSync1 :: List.replicate (p.length + 6) .pending ++ [.message t p] ∧
          u.discardCount = s.discardCount + 1 ∧ u.lastCause = .badSync1))

/-- The spec's own inference R78: a false sync costs a bounded number of bytes. From the sync pair on, the decoder is scanning again after 3
bytes if they are no valid length, and after L + 6 if they are the valid length L, not before; so after at most
MAX_PAYLOAD + 6. -/
def Obligations.FalseSyncCostsBoundedBytes : Prop :=
  ∀ (s : State) (b0 b1 b2 : Byte) (bs : List Byte), Inv s → s.decState = .readLength → s.decIndex = 0 →
    bs.length = s.cfg.maxPayload.toNat + 3 →
    let L := b0.toNat + 256 * b1.toNat
    let k := if b2.toNat = 255 - L % 256 ∧ L ≤ s.cfg.maxPayload.toNat then L + 6 else 3
    k ≤ s.cfg.maxPayload.toNat + 6 ∧
    (∀ j < k, ∃ u : State, runInstrs (feeds ((b0 :: b1 :: b2 :: bs).take j)) s = .next u ∧ scanning u = false) ∧
    ∃ u : State, runInstrs (feeds ((b0 :: b1 :: b2 :: bs).take k)) s = .next u ∧ scanning u = true

/-- The step behind MessageOnlyAfterAWholeValidFrame (the spec's own inference R76, from rules R67-R73): if the bytes of
the frame in progress that the decoder's fields hold are the last of the bytes `seen` so far, they are so after a step too,
of `seen` and the byte it fed; and a MESSAGE is answered only where these end in the whole valid frame. -/
def Obligations.StepKeepsTheHeldBytes : Prop :=
  ∀ (s t : State) (seen : List Byte), Inv s → heldBytes s <:+ seen → step s = .next t →
    heldBytes t <:+ seen ++ fedByStep s ∧
    (∀ m p, newResponses s t = [.message m p] →
      p.length ≤ s.cfg.maxPayload.toNat ∧ frameBytes m p <:+ seen ++ fedByStep s)

/-! ### The host table (spec/70_reset_and_hazards.md rule R112) -/

/-- Rule R112, "host sends" and "block returns": in every state every command completes, and its response is one its row
of the host table lists. So what a host is at liberty to send, it can send at any time, in any state. -/
def Obligations.HostTableReturns : Prop :=
  ∀ (i : Instr) (s : State), ∃ (t : State) (r : Response),
    exec i s = .next t ∧ t.responses = s.responses ++ [r] ∧ (interactionOf i).returns r = true

/-- Rule R105, the duty of RESET at connection start: a connection that keeps it gives the same responses, and leaves the
same fields of rule R9, whatever the previous connection left: those of a block just reset. -/
def Obligations.ResetAtStartForgetsThePreviousConnection : Prop :=
  ∀ (c : Connection) (s : State), Duty.resetAtStart.kept c → s.cfg = c.cfg →
    ∃ u v : State,
      runInstrs c.commands s = .next u ∧ runInstrs c.commands (State.resetWith c.cfg) = .next v ∧
      newResponses s u = newResponses (State.resetWith c.cfg) v ∧
      u = { v with port := s.port, pb := u.pb, responses := u.responses }

/-- Rules R105, R107-R109 and R112, and the spec's own inference R85: in a connection whose hosts keep every duty of the
host table, whose peer sends whole frames with no gap longer than TIMEOUT_TICKS periods inside one, and in which no second
RESET begins another connection, every frame is delivered, in order, whatever state the block was in before, and no byte
is discarded and nothing times out. RDREGs and ENCODEs may come at any time. -/
def Obligations.DutiesDeliverEveryFrame : Prop :=
  ∀ (c : Connection) (s : State) (sent : List (Half × List Byte)),
    c.keepsDuties → c.ordered → s.cfg = c.cfg → (∀ i ∈ c.commands.tail, i ≠ .reset) →
    (∀ m ∈ sent, m.2.length ≤ c.cfg.maxPayload.toNat) →
    c.received = (sent.map fun m => frameBytes m.1 m.2).flatten →
    gapsWithin (c.cfg.timeoutTicks.toNat * c.period) sent (c.fed.map Prod.fst) →
    ∃ u : State, runInstrs c.commands s = .next u ∧
      feedResponses c.commands (newResponses s u) =
        (sent.map fun m => List.replicate (m.2.length + 7) Response.pending ++ [.message m.1 m.2]).flatten ∧
      u.decState = .awaitSync0 ∧ u.discardCount = 0 ∧ u.timeoutCount = 0 ∧ u.lastCause = .noCause

/-- Rules R108 and R112, "a liberty never ends a wait, and only a duty does", with the spec's own inference R85. From a
mid-frame state right after a byte, with no byte coming: where the tick duty is kept for TIMEOUT_TICKS + 1 periods the wait
is over, whatever liberties the hosts take; before TIMEOUT_TICKS periods it goes on, and with no TICK at all it goes on for
ever, through any RDREGs and ENCODEs. (RESET, which begins a new connection, ends the old one's wait with it; the first
clause does not count on it.) -/
def Obligations.OnlyADutyEndsAWait : Prop :=
  ∀ (c : Connection) (s : State), c.ordered → s.cfg = c.cfg → s.decState ≠ .awaitSync0 → s.idleTicks = 0 →
    (∀ i ∈ c.commands, i = .tick ∨ isLiberty i = true) →
    (Duty.tickEveryPeriod.kept c → c.start + (c.cfg.timeoutTicks.toNat + 1) * c.period ≤ c.stop →
      ∃ u : State, runInstrs c.commands s = .next u ∧ u.decState = .awaitSync0) ∧
    (Duty.tickEveryPeriod.kept c → c.stop < c.start + c.cfg.timeoutTicks.toNat * c.period →
      (∀ i ∈ c.commands, i ≠ .reset) →
      ∃ u : State, runInstrs c.commands s = .next { s with idleTicks := u.idleTicks, responses := u.responses } ∧
        ∀ k, Response.timedOut k ∉ newResponses s u) ∧
    ((∀ i ∈ c.commands, i ≠ .tick ∧ i ≠ .reset) →
      ∃ u : State, runInstrs c.commands s = .next { s with responses := u.responses })

/-- Rules R110 and R112, the duty of contiguous output, with the spec's own inference R82: where the hosts of one block
write each FRAME contiguously, in any order, an idle peer block with the same MAX_PAYLOAD that is fed the output discards
nothing and gives back exactly the messages framed. -/
def Obligations.ContiguousOutputIsDecodedByThePeer : Prop :=
  ∀ (c : Connection) (peer : State), Duty.contiguousOutput.kept c → Inv peer → peer.decState = .awaitSync0 →
    peer.cfg.maxPayload = c.cfg.maxPayload →
    ∃ (u : State) (order : List (Half × List Byte)),
      order.Perm c.framed ∧ runInstrs (feeds c.output) peer = .next u ∧ u.decState = .awaitSync0 ∧
      newResponses peer u =
        (order.map fun m => List.replicate (m.2.length + 7) Response.pending ++ [.message m.1 m.2]).flatten
end

