-- ==== Sys2Proof/Laws/Checksum.lean ====
section
/-! SUPPORT. The operand and checksum functions in unbounded arithmetic, where spec/40_checksum.md states them. -/
namespace Sys2Proof.Machine

@[simp] theorem lo_toNat (v : Half) : (lo v).toNat = v.toNat % 256 := by simp [lo]

@[simp] theorem hi_toNat (v : Half) : (hi v).toNat = v.toNat / 256 := by
  have := v.isLt
  simp [hi, Nat.shiftRight_eq_div_pow]
  omega

@[simp] theorem withLo_toNat (v : Half) (b : Byte) : (withLo v b).toNat = v.toNat / 256 * 256 + b.toNat := by
  have := b.isLt
  rw [withLo, BitVec.toNat_append, ← Nat.shiftLeft_add_eq_or_of_lt b.isLt, hi_toNat, Nat.shiftLeft_eq]

@[simp] theorem withHi_toNat (v : Half) (b : Byte) : (withHi v b).toNat = b.toNat * 256 + v.toNat % 256 := by
  rw [withHi, BitVec.toNat_append, ← Nat.shiftLeft_add_eq_or_of_lt (lo v).isLt, lo_toNat, Nat.shiftLeft_eq]

/-- Writing both bytes, low byte first, gives the u16 they came from. -/
theorem withHi_withLo (v w : Half) : withHi (withLo v (lo w)) (hi w) = w := by
  apply BitVec.eq_of_toNat_eq
  have := w.isLt
  simp only [withHi_toNat, withLo_toNat, lo_toNat, hi_toNat]
  omega

@[simp] theorem cpl_toNat (x : Nat) : (cpl x).toNat = 255 - x % 256 := by
  simp [cpl]
  omega

@[simp] theorem lck_toNat (L : Half) : (lck L).toNat = 255 - L.toNat % 256 := cpl_toNat _

@[simp] theorem mck_toNat (t : Half) (p : List Byte) :
    (mck t p).toNat = 255 - (t.toNat % 256 + t.toNat / 256 + byteSum p) % 256 := by
  simp [mck]

@[simp] theorem byteSum_nil : byteSum [] = 0 := rfl

@[simp] theorem byteSum_cons (b : Byte) (p : List Byte) : byteSum (b :: p) = b.toNat + byteSum p := rfl

@[simp] theorem byteSum_append (p q : List Byte) : byteSum (p ++ q) = byteSum p + byteSum q := by
  simp [byteSum]

theorem msgValid_iff (t : Half) (p : List Byte) (c : Byte) : msgValid t p c = true ↔ c = mck t p := by
  simp [msgValid]

/-- The length validator, said once: its verdict decides which of the three conditions holds. -/
theorem lenCheck_cases (m L : Half) (c : Byte) :
    (c ≠ lck L ∧ lenCheck m L c = .badLengthChecksum) ∨
    (c = lck L ∧ m.toNat < L.toNat ∧ lenCheck m L c = .oversizedLength) ∨
    (c = lck L ∧ L.toNat ≤ m.toNat ∧ lenCheck m L c = .ok) := by
  unfold lenCheck
  by_cases h : c = lck L
  · by_cases hm : m.toNat < L.toNat
    · exact .inr (.inl ⟨h, hm, by simp [h, hm]⟩)
    · exact .inr (.inr ⟨h, by omega, by simp [h, hm]⟩)
  · exact .inl ⟨h, by simp [h]⟩

end Sys2Proof.Machine
end

