-- ==== Sys2Proof/Laws/State.lean ====
section
/-! SUPPORT. One lemma per field per named update of State, so that no later proof unfolds a record update. -/
namespace Sys2Proof.Machine

@[simp] theorem State.present_cfg (c : Command) (s : State) : (State.present c s).cfg = s.cfg := rfl
@[simp] theorem State.present_port (c : Command) (s : State) : (State.present c s).port = s.port ++ [c] := rfl
@[simp] theorem State.present_responses (c : Command) (s : State) : (State.present c s).responses = s.responses := rfl
@[simp] theorem State.present_decState (c : Command) (s : State) : (State.present c s).decState = s.decState := rfl
@[simp] theorem State.present_decLength (c : Command) (s : State) : (State.present c s).decLength = s.decLength := rfl
@[simp] theorem State.present_decTopic (c : Command) (s : State) : (State.present c s).decTopic = s.decTopic := rfl
@[simp] theorem State.present_decIndex (c : Command) (s : State) : (State.present c s).decIndex = s.decIndex := rfl
@[simp] theorem State.present_decPayload (c : Command) (s : State) : (State.present c s).decPayload = s.decPayload := rfl
@[simp] theorem State.present_pb (c : Command) (s : State) : (State.present c s).pb = s.pb := rfl
@[simp] theorem State.present_idleTicks (c : Command) (s : State) : (State.present c s).idleTicks = s.idleTicks := rfl
@[simp] theorem State.present_discardCount (c : Command) (s : State) : (State.present c s).discardCount = s.discardCount := rfl
@[simp] theorem State.present_timeoutCount (c : Command) (s : State) : (State.present c s).timeoutCount = s.timeoutCount := rfl
@[simp] theorem State.present_lastCause (c : Command) (s : State) : (State.present c s).lastCause = s.lastCause := rfl

@[simp] theorem State.respond_cfg (r : Response) (s : State) : (State.respond r s).cfg = s.cfg := rfl
@[simp] theorem State.respond_port (r : Response) (s : State) : (State.respond r s).port = s.port := rfl
@[simp] theorem State.respond_responses (r : Response) (s : State) : (State.respond r s).responses = s.responses ++ [r] := rfl
@[simp] theorem State.respond_decState (r : Response) (s : State) : (State.respond r s).decState = s.decState := rfl
@[simp] theorem State.respond_decLength (r : Response) (s : State) : (State.respond r s).decLength = s.decLength := rfl
@[simp] theorem State.respond_decTopic (r : Response) (s : State) : (State.respond r s).decTopic = s.decTopic := rfl
@[simp] theorem State.respond_decIndex (r : Response) (s : State) : (State.respond r s).decIndex = s.decIndex := rfl
@[simp] theorem State.respond_decPayload (r : Response) (s : State) : (State.respond r s).decPayload = s.decPayload := rfl
@[simp] theorem State.respond_pb (r : Response) (s : State) : (State.respond r s).pb = s.pb := rfl
@[simp] theorem State.respond_idleTicks (r : Response) (s : State) : (State.respond r s).idleTicks = s.idleTicks := rfl
@[simp] theorem State.respond_discardCount (r : Response) (s : State) : (State.respond r s).discardCount = s.discardCount := rfl
@[simp] theorem State.respond_timeoutCount (r : Response) (s : State) : (State.respond r s).timeoutCount = s.timeoutCount := rfl
@[simp] theorem State.respond_lastCause (r : Response) (s : State) : (State.respond r s).lastCause = s.lastCause := rfl

@[simp] theorem State.enterIdle_cfg (s : State) : (State.enterIdle s).cfg = s.cfg := rfl
@[simp] theorem State.enterIdle_port (s : State) : (State.enterIdle s).port = s.port := rfl
@[simp] theorem State.enterIdle_responses (s : State) : (State.enterIdle s).responses = s.responses := rfl
@[simp] theorem State.enterIdle_decState (s : State) : (State.enterIdle s).decState = .awaitSync0 := rfl
@[simp] theorem State.enterIdle_decLength (s : State) : (State.enterIdle s).decLength = 0 := rfl
@[simp] theorem State.enterIdle_decTopic (s : State) : (State.enterIdle s).decTopic = 0 := rfl
@[simp] theorem State.enterIdle_decIndex (s : State) : (State.enterIdle s).decIndex = 0 := rfl
@[simp] theorem State.enterIdle_decPayload (s : State) : (State.enterIdle s).decPayload = [] := rfl
@[simp] theorem State.enterIdle_pb (s : State) : (State.enterIdle s).pb = s.pb := rfl
@[simp] theorem State.enterIdle_idleTicks (s : State) : (State.enterIdle s).idleTicks = 0 := rfl
@[simp] theorem State.enterIdle_discardCount (s : State) : (State.enterIdle s).discardCount = s.discardCount := rfl
@[simp] theorem State.enterIdle_timeoutCount (s : State) : (State.enterIdle s).timeoutCount = s.timeoutCount := rfl
@[simp] theorem State.enterIdle_lastCause (s : State) : (State.enterIdle s).lastCause = s.lastCause := rfl

@[simp] theorem restartTimer_cfg (s : State) : (restartTimer s).cfg = s.cfg := rfl
@[simp] theorem restartTimer_port (s : State) : (restartTimer s).port = s.port := rfl
@[simp] theorem restartTimer_responses (s : State) : (restartTimer s).responses = s.responses := rfl
@[simp] theorem restartTimer_decState (s : State) : (restartTimer s).decState = s.decState := rfl
@[simp] theorem restartTimer_decLength (s : State) : (restartTimer s).decLength = s.decLength := rfl
@[simp] theorem restartTimer_decTopic (s : State) : (restartTimer s).decTopic = s.decTopic := rfl
@[simp] theorem restartTimer_decIndex (s : State) : (restartTimer s).decIndex = s.decIndex := rfl
@[simp] theorem restartTimer_decPayload (s : State) : (restartTimer s).decPayload = s.decPayload := rfl
@[simp] theorem restartTimer_pb (s : State) : (restartTimer s).pb = s.pb := rfl
@[simp] theorem restartTimer_idleTicks (s : State) : (restartTimer s).idleTicks = 0 := rfl
@[simp] theorem restartTimer_discardCount (s : State) : (restartTimer s).discardCount = s.discardCount := rfl
@[simp] theorem restartTimer_timeoutCount (s : State) : (restartTimer s).timeoutCount = s.timeoutCount := rfl
@[simp] theorem restartTimer_lastCause (s : State) : (restartTimer s).lastCause = s.lastCause := rfl

@[simp] theorem storePayload_cfg (b : Byte) (s : State) : (storePayload b s).cfg = s.cfg := rfl
@[simp] theorem storePayload_port (b : Byte) (s : State) : (storePayload b s).port = s.port := rfl
@[simp] theorem storePayload_responses (b : Byte) (s : State) : (storePayload b s).responses = s.responses := rfl
@[simp] theorem storePayload_decState (b : Byte) (s : State) : (storePayload b s).decState = s.decState := rfl
@[simp] theorem storePayload_decLength (b : Byte) (s : State) : (storePayload b s).decLength = s.decLength := rfl
@[simp] theorem storePayload_decTopic (b : Byte) (s : State) : (storePayload b s).decTopic = s.decTopic := rfl
@[simp] theorem storePayload_decIndex (b : Byte) (s : State) : (storePayload b s).decIndex = s.decIndex + 1 := rfl
@[simp] theorem storePayload_decPayload (b : Byte) (s : State) : (storePayload b s).decPayload = s.decPayload ++ [b] := rfl
@[simp] theorem storePayload_pb (b : Byte) (s : State) : (storePayload b s).pb = Memory.write s.pb s.decIndex.toNat b := rfl
@[simp] theorem storePayload_idleTicks (b : Byte) (s : State) : (storePayload b s).idleTicks = s.idleTicks := rfl
@[simp] theorem storePayload_discardCount (b : Byte) (s : State) : (storePayload b s).discardCount = s.discardCount := rfl
@[simp] theorem storePayload_timeoutCount (b : Byte) (s : State) : (storePayload b s).timeoutCount = s.timeoutCount := rfl
@[simp] theorem storePayload_lastCause (b : Byte) (s : State) : (storePayload b s).lastCause = s.lastCause := rfl

@[simp] theorem State.rescan_cfg (b : Byte) (s : State) : (State.rescan b s).cfg = s.cfg := by
  unfold State.rescan; split <;> rfl
@[simp] theorem State.rescan_port (b : Byte) (s : State) : (State.rescan b s).port = s.port := by
  unfold State.rescan; split <;> rfl
@[simp] theorem State.rescan_responses (b : Byte) (s : State) : (State.rescan b s).responses = s.responses := by
  unfold State.rescan; split <;> rfl
@[simp] theorem State.rescan_decState (b : Byte) (s : State) : (State.rescan b s).decState = if b = sync0 then .awaitSync1 else s.decState := by
  unfold State.rescan; split <;> rfl
@[simp] theorem State.rescan_decLength (b : Byte) (s : State) : (State.rescan b s).decLength = s.decLength := by
  unfold State.rescan; split <;> rfl
@[simp] theorem State.rescan_decTopic (b : Byte) (s : State) : (State.rescan b s).decTopic = s.decTopic := by
  unfold State.rescan; split <;> rfl
@[simp] theorem State.rescan_decIndex (b : Byte) (s : State) : (State.rescan b s).decIndex = s.decIndex := by
  unfold State.rescan; split <;> rfl
@[simp] theorem State.rescan_decPayload (b : Byte) (s : State) : (State.rescan b s).decPayload = s.decPayload := by
  unfold State.rescan; split <;> rfl
@[simp] theorem State.rescan_pb (b : Byte) (s : State) : (State.rescan b s).pb = s.pb := by
  unfold State.rescan; split <;> rfl
@[simp] theorem State.rescan_idleTicks (b : Byte) (s : State) : (State.rescan b s).idleTicks = s.idleTicks := by
  unfold State.rescan; split <;> rfl
@[simp] theorem State.rescan_discardCount (b : Byte) (s : State) : (State.rescan b s).discardCount = s.discardCount := by
  unfold State.rescan; split <;> rfl
@[simp] theorem State.rescan_timeoutCount (b : Byte) (s : State) : (State.rescan b s).timeoutCount = s.timeoutCount := by
  unfold State.rescan; split <;> rfl
@[simp] theorem State.rescan_lastCause (b : Byte) (s : State) : (State.rescan b s).lastCause = s.lastCause := by
  unfold State.rescan; split <;> rfl

@[simp] theorem closePayload_cfg (s : State) : (closePayload s).cfg = s.cfg := by
  unfold closePayload; split <;> rfl
@[simp] theorem closePayload_port (s : State) : (closePayload s).port = s.port := by
  unfold closePayload; split <;> rfl
@[simp] theorem closePayload_responses (s : State) : (closePayload s).responses = s.responses := by
  unfold closePayload; split <;> rfl
@[simp] theorem closePayload_decState (s : State) : (closePayload s).decState = if s.decIndex = s.decLength then .verifyMessageChecksum else s.decState := by
  unfold closePayload; split <;> rfl
@[simp] theorem closePayload_decLength (s : State) : (closePayload s).decLength = s.decLength := by
  unfold closePayload; split <;> rfl
@[simp] theorem closePayload_decTopic (s : State) : (closePayload s).decTopic = s.decTopic := by
  unfold closePayload; split <;> rfl
@[simp] theorem closePayload_decIndex (s : State) : (closePayload s).decIndex = if s.decIndex = s.decLength then 0 else s.decIndex := by
  unfold closePayload; split <;> rfl
@[simp] theorem closePayload_decPayload (s : State) : (closePayload s).decPayload = s.decPayload := by
  unfold closePayload; split <;> rfl
@[simp] theorem closePayload_pb (s : State) : (closePayload s).pb = s.pb := by
  unfold closePayload; split <;> rfl
@[simp] theorem closePayload_idleTicks (s : State) : (closePayload s).idleTicks = s.idleTicks := by
  unfold closePayload; split <;> rfl
@[simp] theorem closePayload_discardCount (s : State) : (closePayload s).discardCount = s.discardCount := by
  unfold closePayload; split <;> rfl
@[simp] theorem closePayload_timeoutCount (s : State) : (closePayload s).timeoutCount = s.timeoutCount := by
  unfold closePayload; split <;> rfl
@[simp] theorem closePayload_lastCause (s : State) : (closePayload s).lastCause = s.lastCause := by
  unfold closePayload; split <;> rfl

@[simp] theorem State.discard_cfg (cause : Cause) (b : Byte) (s : State) : (State.discard cause b s).cfg = s.cfg := by
  simp [State.discard]
@[simp] theorem State.discard_port (cause : Cause) (b : Byte) (s : State) : (State.discard cause b s).port = s.port := by
  simp [State.discard]
@[simp] theorem State.discard_responses (cause : Cause) (b : Byte) (s : State) : (State.discard cause b s).responses = s.responses ++ [.discarded cause] := by
  simp [State.discard]
@[simp] theorem State.discard_decState (cause : Cause) (b : Byte) (s : State) : (State.discard cause b s).decState = if b = sync0 then .awaitSync1 else .awaitSync0 := by
  simp [State.discard]
@[simp] theorem State.discard_decLength (cause : Cause) (b : Byte) (s : State) : (State.discard cause b s).decLength = 0 := by
  simp [State.discard]
@[simp] theorem State.discard_decTopic (cause : Cause) (b : Byte) (s : State) : (State.discard cause b s).decTopic = 0 := by
  simp [State.discard]
@[simp] theorem State.discard_decIndex (cause : Cause) (b : Byte) (s : State) : (State.discard cause b s).decIndex = 0 := by
  simp [State.discard]
@[simp] theorem State.discard_decPayload (cause : Cause) (b : Byte) (s : State) : (State.discard cause b s).decPayload = [] := by
  simp [State.discard]
@[simp] theorem State.discard_pb (cause : Cause) (b : Byte) (s : State) : (State.discard cause b s).pb = s.pb := by
  simp [State.discard]
@[simp] theorem State.discard_idleTicks (cause : Cause) (b : Byte) (s : State) : (State.discard cause b s).idleTicks = 0 := by
  simp [State.discard]
@[simp] theorem State.discard_discardCount (cause : Cause) (b : Byte) (s : State) : (State.discard cause b s).discardCount = s.discardCount + 1 := by
  simp [State.discard]
@[simp] theorem State.discard_timeoutCount (cause : Cause) (b : Byte) (s : State) : (State.discard cause b s).timeoutCount = s.timeoutCount := by
  simp [State.discard]
@[simp] theorem State.discard_lastCause (cause : Cause) (b : Byte) (s : State) : (State.discard cause b s).lastCause = cause := by
  simp [State.discard]

@[simp] theorem State.timeOut_cfg (s : State) : s.timeOut.cfg = s.cfg := by
  simp [State.timeOut]
@[simp] theorem State.timeOut_port (s : State) : s.timeOut.port = s.port := by
  simp [State.timeOut]
@[simp] theorem State.timeOut_responses (s : State) : s.timeOut.responses = s.responses ++ [.timedOut .timeout] := by
  simp [State.timeOut]
@[simp] theorem State.timeOut_decState (s : State) : s.timeOut.decState = .awaitSync0 := by
  simp [State.timeOut]
@[simp] theorem State.timeOut_decLength (s : State) : s.timeOut.decLength = 0 := by
  simp [State.timeOut]
@[simp] theorem State.timeOut_decTopic (s : State) : s.timeOut.decTopic = 0 := by
  simp [State.timeOut]
@[simp] theorem State.timeOut_decIndex (s : State) : s.timeOut.decIndex = 0 := by
  simp [State.timeOut]
@[simp] theorem State.timeOut_decPayload (s : State) : s.timeOut.decPayload = [] := by
  simp [State.timeOut]
@[simp] theorem State.timeOut_pb (s : State) : s.timeOut.pb = s.pb := by
  simp [State.timeOut]
@[simp] theorem State.timeOut_idleTicks (s : State) : s.timeOut.idleTicks = 0 := by
  simp [State.timeOut]
@[simp] theorem State.timeOut_discardCount (s : State) : s.timeOut.discardCount = s.discardCount := by
  simp [State.timeOut]
@[simp] theorem State.timeOut_timeoutCount (s : State) : s.timeOut.timeoutCount = s.timeoutCount + 1 := by
  simp [State.timeOut]
@[simp] theorem State.timeOut_lastCause (s : State) : s.timeOut.lastCause = .timeout := by
  simp [State.timeOut]

@[simp] theorem State.resetWith_cfg (c : Config) : (State.resetWith c).cfg = c := rfl
@[simp] theorem State.resetWith_port (c : Config) : (State.resetWith c).port = [] := rfl
@[simp] theorem State.resetWith_responses (c : Config) : (State.resetWith c).responses = [] := rfl
@[simp] theorem State.resetWith_decState (c : Config) : (State.resetWith c).decState = .awaitSync0 := rfl
@[simp] theorem State.resetWith_decLength (c : Config) : (State.resetWith c).decLength = 0 := rfl
@[simp] theorem State.resetWith_decTopic (c : Config) : (State.resetWith c).decTopic = 0 := rfl
@[simp] theorem State.resetWith_decIndex (c : Config) : (State.resetWith c).decIndex = 0 := rfl
@[simp] theorem State.resetWith_decPayload (c : Config) : (State.resetWith c).decPayload = [] := rfl
@[simp] theorem State.resetWith_pb (c : Config) : (State.resetWith c).pb = [] := rfl
@[simp] theorem State.resetWith_idleTicks (c : Config) : (State.resetWith c).idleTicks = 0 := rfl
@[simp] theorem State.resetWith_discardCount (c : Config) : (State.resetWith c).discardCount = 0 := rfl
@[simp] theorem State.resetWith_timeoutCount (c : Config) : (State.resetWith c).timeoutCount = 0 := rfl
@[simp] theorem State.resetWith_lastCause (c : Config) : (State.resetWith c).lastCause = .noCause := rfl

@[simp] theorem State.withFetchWord_port (s : State) (nbits w : Nat) :
    (s.withFetchWord nbits w).port = tableCommand nbits w :: s.port := rfl

/-- Two states are equal when every field is. -/
theorem State.eq_of_fields {s t : State} (hcfg : s.cfg = t.cfg) (hport : s.port = t.port)
    (hresponses : s.responses = t.responses) (hstate : s.decState = t.decState) (hlength : s.decLength = t.decLength)
    (htopic : s.decTopic = t.decTopic) (hindex : s.decIndex = t.decIndex) (hpayload : s.decPayload = t.decPayload)
    (hpb : s.pb = t.pb) (hidle : s.idleTicks = t.idleTicks) (hdiscard : s.discardCount = t.discardCount)
    (htimeout : s.timeoutCount = t.timeoutCount) (hcause : s.lastCause = t.lastCause) : s = t := by
  cases s; cases t; simp_all

end Sys2Proof.Machine
end

