-- ==== Sys2Proof/Laws/Step.lean ====
section
/-! SUPPORT. What a step, and each arm it calls, can do, said once. -/
namespace Sys2Proof.Machine

theorem State.accept_eq_none {s : State} (h : s.accept = none) : s.port = [] := by
  unfold State.accept at h
  split at h <;> simp_all

theorem State.accept_eq_some {s s' : State} {c : Command} (h : s.accept = some (c, s')) :
    s.port = c :: s'.port ∧ s' = { s with port := s'.port } := by
  unfold State.accept at h
  split at h
  · simp at h
  · next c' rest hp =>
    simp only [Option.some.injEq, Prod.mk.injEq] at h
    obtain ⟨rfl, rfl⟩ := h
    exact ⟨hp, rfl⟩

theorem State.accept_cons {s : State} {c : Command} {rest : List Command} (h : s.port = c :: rest) :
    s.accept = some (c, { s with port := rest }) := by
  simp [State.accept, h]

/-- A step is one of three things: waiting, performing the decoded command, or answering an illegal one. -/
theorem step_cases (s : State) :
    (s.port = [] ∧ step s = .next s) ∨
    (∃ c rest i, s.port = c :: rest ∧ decode c = .ok i ∧ step s = exec i { s with port := rest }) ∨
    (∃ c rest e, s.port = c :: rest ∧ decode c = .error e ∧
      step s = illegalCommand { s with port := rest }) := by
  cases hp : s.port with
  | nil => exact .inl ⟨rfl, by simp [step, State.accept, hp]⟩
  | cons c rest =>
    cases hd : decode c with
    | ok i => exact .inr (.inl ⟨c, rest, i, rfl, hd, by simp [step, State.accept_cons hp, hd]⟩)
    | error e => exact .inr (.inr ⟨c, rest, e, rfl, hd, by simp [step, State.accept_cons hp, hd]⟩)

/-- An illegal command only answers. -/
theorem illegalCommand_eq (s : State) : illegalCommand s = .next (s.respond .illegal) := rfl

/-- TICK: idle, timed out, or counted. -/
theorem execTick_cases (s : State) :
    (s.decState = .awaitSync0 ∧ execTick s = .next (s.respond .ok)) ∨
    (s.decState ≠ .awaitSync0 ∧ s.cfg.timeoutTicks ≤ s.idleTicks ∧ execTick s = .next s.timeOut) ∨
    (s.decState ≠ .awaitSync0 ∧ s.idleTicks < s.cfg.timeoutTicks ∧
      execTick s = .next (({ s with idleTicks := s.idleTicks + 1 }).respond .ok)) := by
  unfold execTick
  split
  · exact .inl ⟨‹_›, rfl⟩
  · split
    · exact .inr (.inl ⟨‹_›, ‹_›, rfl⟩)
    · exact .inr (.inr ⟨‹_›, BitVec.not_le.mp ‹_›, rfl⟩)

/-- RDREG: a register's value, or ILLEGAL; either way only a response. -/
theorem execRdreg_eq (r : Byte) (s : State) :
    ∃ resp, execRdreg r s = .next (s.respond resp) := by
  unfold execRdreg
  split
  · exact ⟨_, rfl⟩
  · exact ⟨.illegal, rfl⟩

/-- The length arm: discarded for its checksum, discarded for its bound, or accepted. -/
theorem armLck_cases (b : Byte) (s : State) :
    (b ≠ lck s.decLength ∧ armLck b s = s.discard .badLengthChecksum b) ∨
    (b = lck s.decLength ∧ s.cfg.maxPayload.toNat < s.decLength.toNat ∧
      armLck b s = s.discard .oversizedLength b) ∨
    (b = lck s.decLength ∧ s.decLength.toNat ≤ s.cfg.maxPayload.toNat ∧
      armLck b s = ({ s with decState := .readTopicId, decIndex := 0 }).respond .pending) := by
  unfold armLck lenCheck
  by_cases h : b = lck s.decLength
  · by_cases hm : s.cfg.maxPayload.toNat < s.decLength.toNat
    · exact .inr (.inl ⟨h, hm, by simp [h, hm]⟩)
    · exact .inr (.inr ⟨h, by omega, by simp [h, hm]⟩)
  · exact .inl ⟨h, by simp [h]⟩

/-- The message arm: a MESSAGE, or discarded. -/
theorem armMck_cases (b : Byte) (s : State) :
    (b = mck s.decTopic s.decPayload ∧
      armMck b s = s.enterIdle.respond (.message s.decTopic s.decPayload)) ∨
    (b ≠ mck s.decTopic s.decPayload ∧ armMck b s = s.discard .badMessageChecksum b) := by
  unfold armMck msgValid
  by_cases h : b = mck s.decTopic s.decPayload
  · exact .inl ⟨h, by simp [h]⟩
  · exact .inr ⟨h, by simp [h]⟩

end Sys2Proof.Machine
end

