-- ==== Sys2Proof/Laws/Feed.lean ====
section
/-! SUPPORT. What FEED can do, said once. -/
namespace Sys2Proof.Machine

theorem execFeed_eq (b : Byte) (s : State) : exec (.feed b) s = .next (feedArm b (restartTimer s)) := rfl

/-- A FEED is a resynchronisation, a MESSAGE, or a PENDING that touches only decoder fields and the payload buffer. -/
theorem feedArm_cases (b : Byte) (s : State) :
    (∃ c, feedArm b s = s.discard c b ∧
      (c = .badSync1 ∨ c = .badLengthChecksum ∨ c = .oversizedLength ∨ c = .badMessageChecksum)) ∨
    (s.decState = .verifyMessageChecksum ∧ b = mck s.decTopic s.decPayload ∧
      feedArm b s = s.enterIdle.respond (.message s.decTopic s.decPayload)) ∨
    (∃ s' : State, feedArm b s = s'.respond .pending ∧ s'.responses = s.responses ∧ s'.cfg = s.cfg ∧
      s'.port = s.port ∧ s'.discardCount = s.discardCount ∧ s'.timeoutCount = s.timeoutCount ∧
      s'.lastCause = s.lastCause ∧ s'.idleTicks = s.idleTicks) := by
  cases hs : s.decState <;> simp only [feedArm, hs]
  case awaitSync0 =>
    right; right
    unfold armSync0
    split <;> exact ⟨_, rfl, rfl, rfl, rfl, rfl, rfl, rfl, rfl⟩
  case awaitSync1 =>
    unfold armSync1
    split
    · right; right; exact ⟨_, rfl, rfl, rfl, rfl, rfl, rfl, rfl, rfl⟩
    · left; exact ⟨_, rfl, .inl rfl⟩
  case readLength =>
    right; right
    unfold armLen
    split <;> exact ⟨_, rfl, rfl, rfl, rfl, rfl, rfl, rfl, rfl⟩
  case verifyLengthChecksum =>
    rcases armLck_cases b s with ⟨_, h⟩ | ⟨_, _, h⟩ | ⟨_, _, h⟩ <;> rw [h]
    · left; exact ⟨_, rfl, .inr (.inl rfl)⟩
    · left; exact ⟨_, rfl, .inr (.inr (.inl rfl))⟩
    · right; right; exact ⟨_, rfl, rfl, rfl, rfl, rfl, rfl, rfl, rfl⟩
  case readTopicId =>
    right; right
    unfold armTopic
    split <;> exact ⟨_, rfl, rfl, rfl, rfl, rfl, rfl, rfl, rfl⟩
  case readPayload =>
    right; right
    exact ⟨closePayload (storePayload b s), rfl, by simp, by simp, by simp, by simp, by simp, by simp, by simp⟩
  case verifyMessageChecksum =>
    rcases armMck_cases b s with ⟨hb, h⟩ | ⟨_, h⟩ <;> rw [h]
    · right; left; exact ⟨trivial, hb, rfl⟩
    · left; exact ⟨_, rfl, .inr (.inr (.inr rfl))⟩

end Sys2Proof.Machine
end

