-- ==== Sys2Proof/Laws/Run.lean ====
section
/-! SUPPORT. Runs of commands: the small lemmas of runInstrs, bytesFed, feedResponses and the pseudo-commands. -/
namespace Sys2Proof.Machine

@[simp] theorem runInstrs_nil (s : State) : runInstrs [] s = .next s := rfl

/-- A run of one command is that command. -/
@[simp] theorem runInstrs_one (i : Instr) (s : State) : runInstrs [i] s = exec i s := by
  simp only [runInstrs]
  cases exec i s <;> rfl

theorem runInstrs_cons {i : Instr} {s t : State} (h : exec i s = .next t) (is : List Instr) :
    runInstrs (i :: is) s = runInstrs is t := by
  simp [runInstrs, h]

/-- A run goes on from where its first part ended (rule R35). -/
theorem runInstrs_append {is : List Instr} {s t : State} (h : runInstrs is s = .next t) (js : List Instr) :
    runInstrs (is ++ js) s = runInstrs js t := by
  induction is generalizing s with
  | nil => cases h; rfl
  | cons i is ih =>
    simp only [List.cons_append, runInstrs] at h ⊢
    cases he : exec i s with
    | next u => rw [he] at h; exact ih h
    | fault r => rw [he] at h; cases h
    | refused r => rw [he] at h; cases h

@[simp] theorem feeds_nil : feeds [] = [] := rfl

@[simp] theorem feeds_cons (b : Byte) (bs : List Byte) : feeds (b :: bs) = .feed b :: feeds bs := rfl

@[simp] theorem feeds_append (as bs : List Byte) : feeds (as ++ bs) = feeds as ++ feeds bs := by
  simp [feeds]

@[simp] theorem wait_zero : wait 0 = [] := rfl

theorem wait_succ (n : Nat) : wait (n + 1) = .tick :: wait n := rfl

theorem wait_succ_last (n : Nat) : wait (n + 1) = wait n ++ [.tick] := by
  simp [wait, List.replicate_succ']

@[simp] theorem bytesFed_feeds (bs : List Byte) : bytesFed (feeds bs) = bs := by
  induction bs with
  | nil => rfl
  | cons b bs ih => simp [bytesFed, ih]

@[simp] theorem bytesFed_append (is js : List Instr) : bytesFed (is ++ js) = bytesFed is ++ bytesFed js := by
  induction is with
  | nil => rfl
  | cons i is ih => cases i <;> simp [bytesFed, ih]

@[simp] theorem frameBytes_length (t : Half) (p : List Byte) : (frameBytes t p).length = p.length + 8 := by
  simp [frameBytes]

/-- Under the agents' roles the bytes fed are the feeder's own (rule R98). -/
theorem Schedule.bytesFed_commands (sch : Schedule) (h : sch.obeysRoles = true) :
    bytesFed sch.commands = bytesFed (sch.commandsOf .rxFeeder) := by
  induction sch with
  | nil => rfl
  | cons ai sch ih =>
    obtain ⟨a, i⟩ := ai
    simp only [Schedule.obeysRoles, List.all_cons, Bool.and_eq_true] at h
    have hrest := ih h.2
    simp only [Schedule.commands, Schedule.commandsOf] at hrest ⊢
    cases a <;> cases i <;> simp_all [Agent.issues, bytesFed]

end Sys2Proof.Machine
end

