-- ==== Sys2Proof/Laws/HostTable.lean ====
section
/-! SUPPORT. The host table's definitions, event by event, and what a liberty is. -/
namespace Sys2Proof.Machine

/-- The liberties of rule R112 are RESET, RDREG and ENCODE; FEED and TICK are duties. -/
theorem isLiberty_cases (i : Instr) (h : isLiberty i = true) :
    i = .reset ∨ (∃ r, i = .rdreg r) ∨ ∃ t p, i = .encode t p := by
  cases i with
  | feed b => cases h
  | tick => cases h
  | reset => exact .inl rfl
  | rdreg r => exact .inr (.inl ⟨r, rfl⟩)
  | encode t p => exact .inr (.inr ⟨t, p, rfl⟩)

/-- An event with a TICK's time is a TICK at that time. -/
theorem Event.tickTime_eq_some {e : Event} {n : Nat} : e.tickTime = some n ↔ e.instr = .tick ∧ e.time = n := by
  obtain ⟨t, a, i⟩ := e
  cases i <;> simp [Event.tickTime]

/-- An event that fed a byte is a FEED of that byte at that time. -/
theorem Event.fed_eq_some {e : Event} {x : Nat × Byte} : e.fed = some x ↔ e.instr = .feed x.2 ∧ e.time = x.1 := by
  obtain ⟨t, a, i⟩ := e
  obtain ⟨n, b⟩ := x
  cases i <;> simp [Event.fed, and_comm]

/-- The bytes a connection's commands feed are those of its FEED events. -/
theorem Connection.bytesFed_commands (c : Connection) : bytesFed c.commands = c.fed.map Prod.snd := by
  have key : ∀ es : List Event, bytesFed (es.map Event.instr) = (es.filterMap Event.fed).map Prod.snd := by
    intro es
    induction es with
    | nil => rfl
    | cons e es ih =>
      obtain ⟨t, a, i⟩ := e
      cases i <;> simp_all [bytesFed, Event.fed, List.filterMap_cons]
  exact key c.events

/-- A connection that keeps every duty keeps each of them. -/
theorem Connection.keepsDuties_iff (c : Connection) : c.keepsDuties ↔ ∀ d : Duty, d.kept c := by
  constructor
  · intro h d
    cases d with
    | oneFeeder => exact h .receiveByte _ (by simp [Interaction.must])
    | arrivalOrder => exact h .receiveByte _ (by simp [Interaction.must])
    | tickEveryPeriod => exact h .timePasses _ (by simp [Interaction.must])
    | feedFirstOnTie => exact h .timePasses _ (by simp [Interaction.must])
    | resetAtStart => exact h .newConnection _ (by simp [Interaction.must])
    | contiguousOutput => exact h .sendMessage _ (by simp [Interaction.must])
  · intro h _ d _
    exact h d

/-- Every row of the table gives the host a liberty or a duty. -/
theorem Interaction.may_or_must (k : Interaction) : k.may ≠ [] ∨ k.must ≠ [] := by
  cases k <;> simp [Interaction.may, Interaction.must]

end Sys2Proof.Machine
end

