-- ==== Sys2Proof/Laws/Memory.lean ====
section
/-! SUPPORT. The payload buffer's laws: a read after a write, and that a write keeps the canonical form. -/
namespace Sys2Proof.Machine

@[simp] theorem Memory.read_nil (a : Nat) : Memory.read [] a = none := rfl

/-- A read at the address just written gives the byte written. -/
@[simp] theorem Memory.read_write_same (m : Memory) (a : Nat) (b : Byte) :
    Memory.read (Memory.write m a b) a = some b := by
  induction m with
  | nil => simp [Memory.write, Memory.read]
  | cons kv m ih =>
    obtain ⟨k, v⟩ := kv
    unfold Memory.write
    split
    · simp [Memory.read]
    · split
      · simp [Memory.read]
      · next h => simp [Memory.read, ih, Ne.symm h]

/-- A write leaves every other address alone. -/
theorem Memory.read_write_other (m : Memory) {a a' : Nat} (b : Byte) (h : a' ≠ a) :
    Memory.read (Memory.write m a b) a' = Memory.read m a' := by
  induction m with
  | nil => simp [Memory.write, Memory.read, Ne.symm h, Memory.unlisted]
  | cons kv m ih =>
    obtain ⟨k, v⟩ := kv
    unfold Memory.write
    split
    · simp [Memory.read, Ne.symm h]
    · split
      · next hk => subst hk; simp [Memory.read, Ne.symm h]
      · simp [Memory.read, ih]

theorem Memory.risesAbove_mono {m : Memory} {a a' : Nat} (h : a ≤ a') (hm : Memory.risesAbove a' m = true) :
    Memory.risesAbove a m = true := by
  cases m with
  | nil => rfl
  | cons kv m =>
    simp only [Memory.risesAbove, Bool.and_eq_true, decide_eq_true_eq] at hm ⊢
    exact ⟨by omega, hm.2⟩

theorem Memory.risesAbove_write {m : Memory} {l a : Nat} (b : Byte) (hl : l < a)
    (hm : Memory.risesAbove l m = true) : Memory.risesAbove l (Memory.write m a b) = true := by
  induction m generalizing l with
  | nil => simp [Memory.write, Memory.risesAbove, hl]
  | cons kv m ih =>
    obtain ⟨k, v⟩ := kv
    simp only [Memory.risesAbove, Bool.and_eq_true, decide_eq_true_eq] at hm
    unfold Memory.write
    split
    · simp_all [Memory.risesAbove]
    · split
      · next hk => subst hk; simp_all [Memory.risesAbove]
      · simp only [Memory.risesAbove, Bool.and_eq_true, decide_eq_true_eq]
        exact ⟨hm.1, ih (by omega) hm.2⟩

/-- A write keeps the canonical form. -/
theorem Memory.wf_write {m : Memory} (a : Nat) (b : Byte) (hm : Memory.wf m = true) :
    Memory.wf (Memory.write m a b) = true := by
  cases m with
  | nil => rfl
  | cons kv m =>
    obtain ⟨k, v⟩ := kv
    simp only [Memory.wf] at hm
    unfold Memory.write
    split
    · simp_all [Memory.wf, Memory.risesAbove]
    · split
      · next hk => subst hk; exact hm
      · exact Memory.risesAbove_write b (by omega) hm

/-- The reset state's buffer is in canonical form. -/
theorem State.resetWith_pb_wf (c : Config) : Memory.wf (State.resetWith c).pb = true := rfl

@[simp] theorem Memory.length_readFirst (m : Memory) (n : Nat) : (Memory.readFirst m n).length = n := by
  simp [Memory.readFirst]

/-- Reading one address more reads one byte more. -/
theorem Memory.readFirst_succ (m : Memory) (n : Nat) :
    Memory.readFirst m (n + 1) = Memory.readFirst m n ++ [Memory.read m n] := by
  simp [Memory.readFirst, List.range_succ]

/-- A write at or above address `n` does not change the first `n` bytes. -/
theorem Memory.readFirst_write (m : Memory) {n a : Nat} (b : Byte) (h : n ≤ a) :
    Memory.readFirst (Memory.write m a b) n = Memory.readFirst m n := by
  simp only [Memory.readFirst]
  refine List.map_congr_left fun x hx => ?_
  have := List.mem_range.mp hx
  exact Memory.read_write_other m b (by omega)

end Sys2Proof.Machine
end

