-- ==== Sys2Proof/Laws/PerInstr.lean ====
section
/-! SUPPORT. A statement about every instruction as syntax, one lemma per constructor: its word carries its opcode in bits
[31:24] (spec/30_encoding.md rules R48, R49), lies in its own row of the opcode table, and its vector is its payload. -/
namespace Sys2Proof.Laws.EncodedWord

/-- The word of `i` has `i`'s opcode, lies in the table row of `i`'s mnemonic and in no other, and only ENCODE brings a
vector. -/
def Statement (i : Instr) : Prop :=
  opField (encode i).word = i.opcode ∧
  (tableRows.filter fun row => row.covers (encode i).word).map TableRow.mnemonic = [i.mnemonic] ∧
  ((encode i).vector ≠ [] → i.opcode = 0x10)

theorem feed (b : Byte) : Statement (.feed b) := by
  refine ⟨?_, ?_, by simp [encode, Instr.payloadVector]⟩ <;> revert b <;> decide

theorem tick : Statement .tick := by
  refine ⟨?_, ?_, by simp [encode, Instr.payloadVector]⟩ <;> decide

theorem reset : Statement .reset := by
  refine ⟨?_, ?_, by simp [encode, Instr.payloadVector]⟩ <;> decide

theorem rdreg (r : Byte) : Statement (.rdreg r) := by
  refine ⟨?_, ?_, by simp [encode, Instr.payloadVector]⟩ <;> revert r <;> decide

/-- A word whose masked bits differ from a row's pattern at one bit is not the row's. -/
theorem not_covers {row : TableRow} {w : Word} (n : Nat) (hm : row.mask.getLsbD n = true)
    (hw : w.getLsbD n ≠ row.pattern.getLsbD n) : row.covers w = false := by
  rw [TableRow.covers, beq_eq_false_iff_ne]
  intro h
  have := congrArg (fun v => BitVec.getLsbD v n) h
  simp only [BitVec.getLsbD_and, hm, Bool.and_true] at this
  exact hw this

theorem encode (t : Half) (p : List Byte) : Statement (.encode t p) := by
  have hbit : (Sys2Proof.encode (.encode t p)).word.getLsbD 28 = true := by
    simp only [Sys2Proof.encode, Instr.opcode, Instr.operandBits, BitVec.getLsbD_append]
    rfl
  have hrow : TableRow.covers { mnemonic := "ENCODE", pattern := 0x10000000, mask := 0xFFFF0000 }
      (Sys2Proof.encode (.encode t p)).word = true := by
    simp only [TableRow.covers, beq_iff_eq, Sys2Proof.encode, Instr.opcode, Instr.operandBits]
    apply BitVec.eq_of_getLsbD_eq
    intro i hi
    simp only [BitVec.getLsbD_and, BitVec.getLsbD_append]
    interval_cases i <;> simp
  refine ⟨?_, ?_, fun _ => rfl⟩
  · simp only [opField, Sys2Proof.encode, Instr.opcode]
    apply BitVec.eq_of_getLsbD_eq
    intro i hi
    simp only [BitVec.getLsbD_extractLsb', BitVec.getLsbD_append]
    interval_cases i <;> simp
  · simp only [tableRows, List.filter_cons, hrow]
    repeat rw [not_covers 28 (by decide) (by rw [hbit]; decide)]
    rfl

end Sys2Proof.Laws.EncodedWord
end

