-- ==== Sys2Proof/Tests/Slice0.lean ====
section
/-!
SUPPORT. Own tests, and for every obligation with hypotheses a named witness that meets them. Expected values come from
spec/95_test_vectors.md (the vector is named) or by hand from the rule named; words are written out bit by bit from
spec/30_encoding.md rule R50.
-/
namespace Sys2Proof.Tests

open Sys2Proof.Machine

/-! ### Helpers -/

/-- The state an outcome gives. -/
def after : Host.Outcome State Fault Refusal → Option State
  | .next t => some t
  | _       => none

/-- The last response of the state an outcome gives. -/
def answer (o : Host.Outcome State Fault Refusal) : Option Response := (after o).bind fun t => t.responses.getLast?

/-- The reset state with the decoder's own fields replaced. -/
def decoding (st : ParserState) (len topic index : Half) (payload : List Byte) : State :=
  { State.reset with decState := st, decLength := len, decTopic := topic, decIndex := index, decPayload := payload }

/-- AwaitSync1, `n` TICKs after the last FEED. -/
def waitingSync1 (n : Half) : State := { State.reset with decState := .awaitSync1, idleTicks := n }

/-- Vector V-F26's end state, with the byte stored in the payload buffer: ReadPayload, one byte of three collected. -/
def inPayload : State := { decoding .readPayload 3 5 1 [1] with pb := [(0, 1)] }

/-- The state before the last byte of vector S1. -/
def beforeChecksum : State := { decoding .verifyMessageChecksum 3 5 0 [1, 2, 3] with pb := [(0, 1), (1, 2), (2, 3)] }

/-- A configuration small enough to try its boundaries: MAX_PAYLOAD = 2, TIMEOUT_TICKS = 1. -/
def small : State := State.resetWith { maxPayload := 2, timeoutTicks := 1 }

/-- ENCODE 7, [] frames these bytes (vector V-E2). -/
def frame7 : List Byte := [0xFF, 0xFD, 0x00, 0x00, 0xFF, 0x07, 0x00, 0xF8]

/-! ### Well-formed instructions and illegal commands (rule R51; vectors V-W1) -/

theorem test_wf_rdreg_last : (Instr.rdreg 0x09).wellFormed = true := by decide
theorem test_wf_rdreg_reserved : (Instr.rdreg 0x0A).wellFormed = false := by decide
theorem test_illegal_opcode : (Command.mk 0x05000000 []).illegal = true ∧ (Command.mk 0x00000000 []).illegal = true := by
  decide
theorem test_illegal_reserved_bit :
    (Command.mk 0x01000100 []).illegal = true ∧ (Command.mk 0x02000001 []).illegal = true ∧
    (Command.mk 0x03000001 []).illegal = true ∧ (Command.mk 0x04000104 []).illegal = true ∧
    (Command.mk 0x10010005 [1]).illegal = true := by decide
theorem test_illegal_stray_vector : (Command.mk 0x010000FF [1]).illegal = true := by decide
theorem test_illegal_register : (Command.mk 0x0400000A []).illegal = true ∧ (Command.mk 0x040000FF []).illegal = true := by
  decide
theorem test_legal_commands :
    (Command.mk 0x010000FF []).illegal = false ∧ (Command.mk 0x04000009 []).illegal = false ∧
    (Command.mk 0x1000FFFF []).illegal = false := by decide

/-! ### Decoding: each constructor's word, written out from rule R50 (op [31:24], then its fields) -/

theorem test_decode_feed : decodeTableWord 32 0b00000001_00000000_00000000_10100101 = some (.feed 0xA5) := by decide
theorem test_decode_tick : decodeTableWord 32 0b00000010_00000000_00000000_00000000 = some .tick := by decide
theorem test_decode_reset : decodeTableWord 32 0b00000011_00000000_00000000_00000000 = some .reset := by decide
theorem test_decode_rdreg : decodeTableWord 32 0b00000100_00000000_00000000_00000111 = some (.rdreg 0x07) := by decide
theorem test_decode_encode :
    decodeTableWord 32 0b00010000_00000000_00010010_00110100 = some (.encode 0x1234 []) := by decide
theorem test_decode_refuses :
    decodeTableWord 32 0b00000000_00000000_00000000_00000000 = none ∧
    decodeTableWord 32 0b00000001_00000000_00000001_00000000 = none ∧
    decodeTableWord 32 0b00000100_00000000_00000000_00001010 = none := by decide
/-- Rule R28: least significant byte first; the vector beside ENCODE's word. -/
theorem test_decode_link_bytes :
    decodeBytes [0x05, 0x00, 0x00, 0x10, 0x01, 0x02, 0x03] = .ok (.encode 5 [1, 2, 3]) ∧
    decodeBytes [0xFF, 0x00, 0x00] = .error .truncatedWord := ⟨rfl, rfl⟩
theorem test_encode_words :
    encode (.feed 0xFF) = ⟨0x010000FF, []⟩ ∧ encode .tick = ⟨0x02000000, []⟩ ∧ encode .reset = ⟨0x03000000, []⟩ ∧
    encode (.rdreg 4) = ⟨0x04000004, []⟩ ∧ encode (.encode 5 [1, 2, 3]) = ⟨0x10000005, [1, 2, 3]⟩ := by decide
/-- The host's fetch: the table word is the first command the block performs. -/
theorem test_step_fetch_word :
    answer (step (State.reset.withFetchWord 32 0x04000008)) = some (.regValue 2048) := by decide
/-- Rule R55: "No other pseudo-command exists". -/
theorem test_assemble_rejects : assembleLine "NOP".toList = none ∧ assembleLine "FEED 256".toList = none := by decide

/-! ### FEED -/

/-- Vector S1, step 12. -/
theorem test_feed_message : answer (exec (.feed 0xF4) beforeChecksum) = some (.message 5 [1, 2, 3]) := by decide
/-- Vector V-F8's last byte: 0x0900 is too long, and the failing 0xFF is re-evaluated as sync0. -/
theorem test_feed_oversized :
    after (exec (.feed 0xFF) (decoding .verifyLengthChecksum 0x0900 0 0 [])) =
      some { State.reset with
        decState := .awaitSync1, discardCount := 1, lastCause := .oversizedLength
        responses := [.discarded .oversizedLength] } := by decide

/-! ### TICK -/

/-- Vector V-T3: idle_ticks = 30 = TIMEOUT_TICKS times out. -/
theorem test_tick_timeout :
    after (exec .tick (waitingSync1 30)) =
      some { State.reset with timeoutCount := 1, lastCause := .timeout, responses := [.timedOut .timeout] } := by decide
/-- Vector V-T2's last TICK: 29 counts to 30. -/
theorem test_tick_counts :
    after (exec .tick (waitingSync1 29)) = some { waitingSync1 30 with responses := [.ok] } := by decide

/-! ### RESET, RDREG, illegal commands -/

/-- Vector V-R4: the configuration is kept; the payload buffer too (rule R25). -/
theorem test_reset :
    after (exec .reset { small with decState := .readPayload, discardCount := 7, pb := [(0, 1)] }) =
      some { small with pb := [(0, 1)], responses := [.ok] } := by decide
/-- Vector V-D9: reading idle_ticks leaves it. -/
theorem test_rdreg_idle :
    after (exec (.rdreg 0x07) (waitingSync1 30)) = some { waitingSync1 30 with responses := [.regValue 30] } := by decide
/-- Vectors V-D2 to V-D5 (the state of V-F25): dec_state and dec_index. -/
theorem test_rdreg_decoder :
    answer (exec (.rdreg 0x00) (decoding .readTopicId 3 5 1 [])) = some (.regValue 4) ∧
    answer (exec (.rdreg 0x03) (decoding .readTopicId 3 5 1 [])) = some (.regValue 1) := by decide
/-- Vector V-I3: an illegal FEED feeds no byte, so idle_ticks stays. -/
theorem test_illegal_feed :
    after (step { waitingSync1 30 with port := [⟨0x01000200, []⟩] }) =
      some { waitingSync1 30 with responses := [.illegal] } := by decide

/-! ### ENCODE -/

/-- Vector V-E4. -/
theorem test_encode_frame :
    answer (exec (.encode 0x1234 [0xAB]) State.reset) =
      some (.frame [0xFF, 0xFD, 0x01, 0x00, 0xFE, 0x34, 0x12, 0xAB, 0x0E]) := by decide
/-- Vector V-E14. -/
theorem test_encode_too_large :
    answer (exec (.encode 1 [0x00]) (State.resetWith { maxPayload := 0, timeoutTicks := 30 })) =
      some .payloadTooLarge := by decide

/-! ### Checksums -/

/-- Vectors V-C2: the topic is summed as two bytes, and the complement of a sum that is 0 mod 256 is FF. -/
theorem test_mck : mck 0x0100 [0x00] = 0xFE ∧ mck 0x00FF [0x01] = 0xFF ∧ mck 0xABCD [0xFF, 0xFD] = 0x8B := by decide
/-- Vectors V-C1 at their wrap. -/
theorem test_lck : lck 255 = 0x00 ∧ lck 256 = 0xFF ∧ lck 0x0900 = 0xFF := by decide

/-! ### Witnesses: concrete states and operands that meet the hypotheses of the obligation named -/

/-- The invariant holds in small states, one of each kind a witness below uses. -/
theorem witness_inv_waitingSync1 : Inv (waitingSync1 0) ∧ Inv (waitingSync1 30) :=
  ⟨by constructor <;> decide, by constructor <;> decide⟩
theorem witness_inv_inPayload : Inv inPayload := by constructor <;> decide
theorem witness_inv_beforeChecksum : Inv beforeChecksum := by constructor <;> decide
theorem witness_inv_readLength : Inv (decoding .readLength 0 0 0 []) := by constructor <;> decide

theorem witness_DecodeEncodeRoundTrip :
    (Instr.rdreg 0x09).wellFormed = true ∧ decode ⟨0x04000009, []⟩ = .ok (.rdreg 0x09) := ⟨rfl, rfl⟩
/-- Each item of rule R51, with the command at the head of a port. -/
theorem witness_IllegalCommandsOnlyAnswer :
    (Command.mk 0x05000000 []).illegal = true ∧ (Command.mk 0x02000001 []).illegal = true ∧
    (Command.mk 0x010000FF [1]).illegal = true ∧ (Command.mk 0x0400000A []).illegal = true ∧
    (State.reset.present ⟨0x0400000A, []⟩).port = ⟨0x0400000A, []⟩ :: [] := by decide
theorem witness_DecodedWordLiesInItsTableRow : decode ⟨0x1000FFFF, [1]⟩ = .ok (.encode 0xFFFF [1]) := rfl
theorem witness_StepRunsTheDecodedInstruction :
    (State.reset.withFetchWord 32 0x02000000).port = ⟨0x02000000, []⟩ :: [] ∧
    decode ⟨0x02000000, []⟩ = .ok .tick := ⟨rfl, rfl⟩
theorem witness_EveryCommandAnswersExactlyOnce :
    ((waitingSync1 30).withFetchWord 32 0x02000000).port = ⟨0x02000000, []⟩ :: [] := by decide
theorem witness_WaitsWhenNoCommandIsPresented : State.reset.port = [] := by decide
theorem witness_PortRunIsCommandSequence :
    let is : List Instr := [.feed 0xFF, .rdreg 0x09, .encode 5 [1]]
    (∀ i ∈ is, i.wellFormed = true) ∧
    ({ State.reset with port := is.map encode ++ [Command.mk 0 []] } : State).port = is.map encode ++ [Command.mk 0 []] := by decide
theorem witness_ChunkBoundariesDoNotMatter : (waitingSync1 30).port = [] := by decide
theorem witness_ConfigurationNeverChanges :
    (after (step (small.withFetchWord 32 0x03000000))).isSome = true := by decide
/-- Mid-frame, on the byte that completes the payload buffer's next entry. -/
theorem witness_StepKeepsTheInvariant :
    Inv (inPayload.withFetchWord 32 0x01000002) ∧
    (after (step (inPayload.withFetchWord 32 0x01000002))).isSome = true :=
  ⟨by constructor <;> decide, by decide⟩
/-- No byte at or above PB_CAP: only address 0 is listed. -/
theorem witness_inPayload_buffer : BufferInv (inPayload.withFetchWord 32 0x01000002) where
  canonical := by decide
  bounded := by
    intro a ha
    have h0 : (inPayload.withFetchWord 32 0x01000002).cfg.pbCap = 2048 := by decide
    have h1 : 0 ≠ a := by omega
    show Memory.read [(0, 1)] a = none
    simp [Memory.read, Memory.unlisted, h1]
  holds := by decide
theorem witness_StepKeepsTheBufferInvariant :
    Inv (inPayload.withFetchWord 32 0x01000002) ∧ BufferInv (inPayload.withFetchWord 32 0x01000002) ∧
    (after (step (inPayload.withFetchWord 32 0x01000002))).isSome = true :=
  ⟨witness_StepKeepsTheInvariant.1, witness_inPayload_buffer, witness_StepKeepsTheInvariant.2⟩
/-- The clauses of LEN_CHECK at MAX_PAYLOAD = 2048: the verdicts of vectors V-C4. -/
theorem witness_LengthValidatorVerdicts :
    ((0xFE : Byte).toNat ≠ 255 - (0x0900 : Half).toNat % 256) ∧
    ((0xFE : Byte).toNat = 255 - (2049 : Half).toNat % 256 ∧ (2048 : Half).toNat < (2049 : Half).toNat) ∧
    ((0xFF : Byte).toNat = 255 - (2048 : Half).toNat % 256 ∧ (2048 : Half).toNat ≤ (2048 : Half).toNat) := by decide
theorem witness_SingleBitErrorsAreDetected :
    msgValid 5 [1, 2, 3] 0xF4 = true ∧ ([1, 2, 3] : List Byte) = [1] ++ 2 :: [3] ∧ 7 < 8 ∧ 15 < 16 := by decide
theorem witness_ChecksumBlindSpots :
    (lo 5 :: hi 5 :: [1, 2, 3]).Perm (lo 5 :: hi 5 :: [3, 1, 2]) ∧ lo 0x0003 = lo 0xFF03 := by decide
theorem witness_FeedInAwaitSync0 : State.reset.decState = .awaitSync0 := by decide
theorem witness_FeedInAwaitSync1 :
    (waitingSync1 30).decState = .awaitSync1 ∧ (0xFD : Byte) = 0xFD ∧ (0xFC : Byte) ≠ 0xFD := by decide
theorem witness_FeedInReadLength :
    (decoding .readLength 0 0 0 []).decState = .readLength ∧ (decoding .readLength 0 0 0 []).decIndex = 0 ∧
    (decoding .readLength 3 0 1 []).decState = .readLength ∧ (decoding .readLength 3 0 1 []).decIndex ≠ 0 := by decide
/-- A wrong checksum, and the right one just above and just at MAX_PAYLOAD. -/
theorem witness_FeedInVerifyLengthChecksum :
    let long := decoding .verifyLengthChecksum 2049 0 0 []
    let fits := decoding .verifyLengthChecksum 2048 0 0 []
    (long.decState = .verifyLengthChecksum ∧ (0xFF : Byte).toNat ≠ 255 - long.decLength.toNat % 256) ∧
    ((0xFE : Byte).toNat = 255 - long.decLength.toNat % 256 ∧ long.cfg.maxPayload.toNat < long.decLength.toNat) ∧
    (fits.decState = .verifyLengthChecksum ∧ (0xFF : Byte).toNat = 255 - fits.decLength.toNat % 256 ∧
      fits.decLength.toNat ≤ fits.cfg.maxPayload.toNat) := by decide
theorem witness_FeedInReadTopicId :
    (decoding .readTopicId 3 0 0 []).decState = .readTopicId ∧ (decoding .readTopicId 3 0 0 []).decIndex = 0 ∧
    (decoding .readTopicId 0 5 1 []).decState = .readTopicId ∧ (decoding .readTopicId 0 5 1 []).decIndex ≠ 0 := by decide
/-- One byte before the last, and the last. -/
theorem witness_FeedInReadPayload :
    inPayload.decState = .readPayload ∧ Inv inPayload ∧
    (decoding .readPayload 3 5 2 [1, 2]).decState = .readPayload ∧ Inv (decoding .readPayload 3 5 2 [1, 2]) :=
  ⟨rfl, witness_inv_inPayload, rfl, by constructor <;> decide⟩
theorem witness_FeedInVerifyMessageChecksum :
    beforeChecksum.decState = .verifyMessageChecksum ∧
    (0xF4 : Byte).toNat = 255 - (5 % 256 + 5 / 256 + (beforeChecksum.decPayload.map BitVec.toNat).sum) % 256 ∧
    (0xF5 : Byte).toNat ≠ 255 - (5 % 256 + 5 / 256 + (beforeChecksum.decPayload.map BitVec.toNat).sum) % 256 := by decide
theorem witness_NoSyncSearchInsideAFrame :
    (decoding .readLength 0 0 0 []).decState = .readLength ∧
    (decoding .readTopicId 3 0 0 []).decState = .readTopicId ∧ inPayload.decState = .readPayload := by decide
/-- AwaitSync0; at TIMEOUT_TICKS; one below it. -/
theorem witness_TickOutcomes :
    State.reset.decState = .awaitSync0 ∧
    (waitingSync1 30).decState ≠ .awaitSync0 ∧
    (waitingSync1 30).cfg.timeoutTicks.toNat ≤ (waitingSync1 30).idleTicks.toNat ∧
    (waitingSync1 29).idleTicks.toNat < (waitingSync1 29).cfg.timeoutTicks.toNat := by decide
theorem witness_TimeoutAtTickAfterTimeoutTicks :
    (waitingSync1 0).decState ≠ .awaitSync0 ∧ (waitingSync1 0).idleTicks = 0 ∧
    30 ≤ (waitingSync1 0).cfg.timeoutTicks.toNat := by decide
theorem witness_TimeoutRealTimeWindow :
    0 < 1 ∧ 9 < 10 ∧ inPayload.decState ≠ .awaitSync0 ∧ inPayload.idleTicks = 0 := by decide
theorem witness_GapsSplitAFrameOnlyBeyondTimeoutTicks :
    inPayload.decState ≠ .awaitSync0 ∧ inPayload.idleTicks = 0 ∧
    30 ≤ inPayload.cfg.timeoutTicks.toNat ∧ inPayload.cfg.timeoutTicks.toNat < 31 := by decide
theorem witness_RdregReadsTheRegisterMap :
    (0x09 : Byte).toNat ≤ 9 ∧ 9 < (0x0A : Byte).toNat ∧ 9 < (0xFF : Byte).toNat := by decide
theorem witness_EncodeBuildsTheFrame :
    ([1, 2] : List Byte).length ≤ small.cfg.maxPayload.toNat ∧
    small.cfg.maxPayload.toNat < ([1, 2, 3] : List Byte).length := by decide
theorem witness_ReadsAndEncodesAreInvisible :
    ((∃ r, Instr.rdreg 0x09 = .rdreg r) ∨ (∃ t p, Instr.rdreg 0x09 = .encode t p)) ∧
    ((∃ r, Instr.encode 5 [1] = .rdreg r) ∨ (∃ t p, Instr.encode 5 [1] = .encode t p)) :=
  ⟨.inl ⟨_, rfl⟩, .inr ⟨_, _, rfl⟩⟩
/-- A response of each kind the clauses speak of: DISCARDED, TIMED_OUT, neither; and a RESET. -/
theorem witness_DiagnosticsFollowTheResponses :
    answer (exec (.feed 0x00) (waitingSync1 0)) = some (.discarded .badSync1) ∧
    answer (exec .tick (waitingSync1 30)) = some (.timedOut .timeout) ∧
    answer (exec (.feed 0x41) State.reset) = some .pending ∧
    Instr.tick ≠ .reset ∧ answer (exec .reset inPayload) = some .ok := by decide
/-- From AwaitSync0 and from AwaitSync1. -/
theorem witness_DecoderInvertsEncoder :
    (∃ e, Inv State.reset ∧ exec (.encode 7 []) State.reset = .next e ∧ newResponses State.reset e = [.frame frame7] ∧
      State.reset.decState = .awaitSync0) ∧
    (∃ e, Inv (waitingSync1 30) ∧ exec (.encode 7 []) (waitingSync1 30) = .next e ∧
      newResponses (waitingSync1 30) e = [.frame frame7] ∧ (waitingSync1 30).decState = .awaitSync1) :=
  ⟨⟨_, by constructor <;> decide, rfl, by decide, rfl⟩, ⟨_, witness_inv_waitingSync1.2, rfl, by decide, rfl⟩⟩
/-- From AwaitSync0 with garbage that begins with 0xFD, and from AwaitSync1 with garbage that does not. -/
theorem witness_ResynchronisationGuarantee :
    (Inv State.reset ∧ scanning State.reset = true ∧ syncFree [0xFD, 0xFF] = true ∧
      (State.reset.decState = .awaitSync1 → ([0xFD, 0xFF] : List Byte).head? ≠ some 0xFD) ∧
      ([] : List Byte).length ≤ State.reset.cfg.maxPayload.toNat) ∧
    (Inv (waitingSync1 0) ∧ scanning (waitingSync1 0) = true ∧ syncFree [0x41, 0xFD, 0xFF] = true ∧
      ((waitingSync1 0).decState = .awaitSync1 → ([0x41, 0xFD, 0xFF] : List Byte).head? ≠ some 0xFD)) :=
  ⟨⟨by constructor <;> decide, by decide⟩, ⟨witness_inv_waitingSync1.1, by decide⟩⟩
/-- The shortest frame there is, fed with a TICK inside it. -/
theorem witness_MessageOnlyAfterAWholeValidFrame :
    ∃ u, Inv State.reset ∧ State.reset.decState = .awaitSync0 ∧
      runInstrs (.feed 0xFF :: .tick :: feeds frame7.tail) State.reset = .next u ∧
      (newResponses State.reset u).getLast? = some (.message 7 []) :=
  ⟨_, by constructor <;> decide, rfl, rfl, by decide⟩
/-- A feeder's shortest frame, with a TICK, an ENCODE and an RDREG of other agents in between. -/
def schedule : Schedule :=
  (.rxFeeder, .feed 0xFF) :: (.tickSource, .tick) :: (.txProducer 0, .encode 5 [1]) :: (.controller 1, .rdreg 0x09) ::
    (feeds frame7.tail).map fun i => (.rxFeeder, i)
/-- From AwaitSync0 and from AwaitSync1. -/
theorem witness_FrameDecodesUnderEveryInterleaving :
    (encodeResponse 2048 7 [] = .frame frame7 ∧ schedule.obeysRoles = true ∧
      schedule.commandsOf .rxFeeder = feeds frame7 ∧ (∀ ai ∈ schedule, ai.2 ≠ .reset)) ∧
    (Inv State.reset ∧ scanning State.reset = true ∧ State.reset.cfg.maxPayload = 2048 ∧
      ∃ u, runInstrs schedule.commands State.reset = .next u ∧
        ∀ c, Response.timedOut c ∉ newResponses State.reset u) ∧
    (Inv (waitingSync1 0) ∧ scanning (waitingSync1 0) = true ∧ (waitingSync1 0).cfg.maxPayload = 2048 ∧
      ∃ u, runInstrs schedule.commands (waitingSync1 0) = .next u ∧
        ∀ c, Response.timedOut c ∉ newResponses (waitingSync1 0) u) :=
  ⟨by decide, ⟨by constructor <;> decide, by decide, by decide, _, rfl, by intro c; cases c <;> decide⟩,
    ⟨witness_inv_waitingSync1.1, by decide, by decide, _, rfl, by intro c; cases c <;> decide⟩⟩
/-- MAX_PAYLOAD = 2: `bs` has 5 bytes; a bad length checksum, a valid length 2, and the length 3 above the bound. -/
theorem witness_FalseSyncCostsBoundedBytes :
    let s : State := { small with decState := .readLength }
    Inv s ∧ s.decState = .readLength ∧ s.decIndex = 0 ∧
    ([1, 2, 3, 4, 5] : List Byte).length = s.cfg.maxPayload.toNat + 3 ∧
    ¬((0xFE : Byte).toNat = 255 - 2 % 256) ∧
    ((0xFD : Byte).toNat = 255 - 2 % 256 ∧ 2 ≤ s.cfg.maxPayload.toNat) ∧ ¬(3 ≤ s.cfg.maxPayload.toNat) :=
  ⟨by constructor <;> decide, by decide⟩

/-- A step that collects a payload byte, and one that answers MESSAGE. -/
theorem witness_StepKeepsTheHeldBytes :
    let s := inPayload.withFetchWord 32 0x01000002
    let e := beforeChecksum.withFetchWord 32 0x010000F4
    (Inv s ∧ heldBytes s <:+ 0x41 :: heldBytes s ∧ (after (step s)).isSome = true) ∧
    (Inv e ∧ heldBytes e <:+ heldBytes e ∧
      (after (step e)).map (newResponses e) = some [.message 5 [1, 2, 3]]) :=
  ⟨⟨witness_StepKeepsTheInvariant.1, List.suffix_cons .., by decide⟩,
    ⟨by constructor <;> decide, List.suffix_refl _, by decide⟩⟩

/-- A connection of the block configured as `small`, period 10, in which every duty is kept: the shortest frame, with a
gap of exactly TIMEOUT_TICKS periods inside it, a TICK at the same time as a byte on either side, and an ENCODE and an
RDREG in between. -/
def connection : Connection where
  cfg      := small.cfg
  period   := 10
  start    := 0
  stop     := 17
  events   :=
    [⟨0, .controller 0, .reset⟩, ⟨1, .rxFeeder, .feed 0xFF⟩, ⟨2, .rxFeeder, .feed 0xFD⟩,
     ⟨2, .txProducer 3, .encode 5 [1]⟩, ⟨3, .rxFeeder, .feed 0x00⟩, ⟨4, .rxFeeder, .feed 0x00⟩,
     ⟨5, .rxFeeder, .feed 0xFF⟩, ⟨5, .tickSource, .tick⟩, ⟨6, .controller 1, .rdreg 0x09⟩,
     ⟨15, .rxFeeder, .feed 0x07⟩, ⟨15, .tickSource, .tick⟩, ⟨16, .rxFeeder, .feed 0x00⟩,
     ⟨17, .rxFeeder, .feed 0xF8⟩]
  received := frame7
  output   := [0xFF, 0xFD, 0x01, 0x00, 0xFE, 0x05, 0x00, 0x01, 0xF9]

theorem witness_connection_duties : connection.keepsDuties := by
  rw [Connection.keepsDuties_iff]
  intro d
  cases d with
  | oneFeeder => unfold Duty.kept; decide
  | arrivalOrder => unfold Duty.kept; decide
  | tickEveryPeriod => exact ⟨5, 2, by decide, by decide, by decide⟩
  | feedFirstOnTie => unfold Duty.kept; decide
  | resetAtStart => exact ⟨_, _, 0, rfl, rfl, rfl⟩
  | contiguousOutput => exact ⟨connection.frames, List.Perm.refl _, by decide⟩
theorem witness_ResetAtStartForgetsThePreviousConnection :
    Duty.resetAtStart.kept connection ∧ ({ small with decState := .readLength, discardCount := 7 } : State).cfg = connection.cfg :=
  ⟨(Connection.keepsDuties_iff _).1 witness_connection_duties _, rfl⟩
theorem witness_DutiesDeliverEveryFrame :
    connection.keepsDuties ∧ connection.ordered ∧ small.cfg = connection.cfg ∧
    (∀ i ∈ connection.commands.tail, i ≠ .reset) ∧
    (∀ m ∈ [((7, []) : Half × List Byte)], m.2.length ≤ connection.cfg.maxPayload.toNat) ∧
    connection.received = ([((7, []) : Half × List Byte)].map fun m => frameBytes m.1 m.2).flatten ∧
    gapsWithin (connection.cfg.timeoutTicks.toNat * connection.period) [(7, [])] (connection.fed.map Prod.fst) :=
  ⟨witness_connection_duties, ⟨by decide, by decide⟩, rfl, by decide, by decide, by decide, by decide, trivial⟩
/-- The wait of AwaitSync1 at TIMEOUT_TICKS = 1, period 10: TICKs kept up to exactly two periods, with all three liberties
taken; TICKs kept and stopping just before one period; no TICK at all. -/
theorem witness_OnlyADutyEndsAWait :
    let s : State := { small with decState := .awaitSync1 }
    let bare : Connection := { cfg := small.cfg, period := 10, start := 0, stop := 20, events := [], received := [], output := [] }
    let ended : Connection := { bare with
      events := [⟨0, .tickSource, .tick⟩, ⟨1, .controller 0, .rdreg 0⟩, ⟨2, .txProducer 0, .encode 5 [1]⟩,
        ⟨10, .tickSource, .tick⟩, ⟨11, .controller 1, .reset⟩, ⟨20, .tickSource, .tick⟩] }
    let short : Connection := { bare with
      stop := 9, events := [⟨8, .controller 0, .rdreg 0⟩, ⟨9, .tickSource, .tick⟩] }
    let silent : Connection := { bare with
      events := [⟨8, .controller 0, .rdreg 0⟩, ⟨20, .txProducer 0, .encode 5 [1]⟩] }
    (s.decState ≠ .awaitSync0 ∧ s.idleTicks = 0 ∧ s.cfg = small.cfg) ∧
    (ended.ordered ∧ (∀ i ∈ ended.commands, i = .tick ∨ isLiberty i = true) ∧ Duty.tickEveryPeriod.kept ended ∧
      ended.start + (ended.cfg.timeoutTicks.toNat + 1) * ended.period ≤ ended.stop) ∧
    (short.ordered ∧ (∀ i ∈ short.commands, i = .tick ∨ isLiberty i = true) ∧ Duty.tickEveryPeriod.kept short ∧
      short.stop < short.start + short.cfg.timeoutTicks.toNat * short.period ∧ (∀ i ∈ short.commands, i ≠ .reset)) ∧
    (silent.ordered ∧ (∀ i ∈ silent.commands, i = .tick ∨ isLiberty i = true) ∧
      ∀ i ∈ silent.commands, i ≠ .tick ∧ i ≠ .reset) :=
  ⟨by decide,
    ⟨⟨by decide, by decide⟩, by decide, ⟨0, 3, by decide, by decide, by decide⟩, by decide⟩,
    ⟨⟨by decide, by decide⟩, by decide, ⟨9, 1, by decide, by decide, by decide⟩, by decide, by decide⟩,
    ⟨⟨by decide, by decide⟩, by decide, by decide⟩⟩
theorem witness_ContiguousOutputIsDecodedByThePeer :
    Duty.contiguousOutput.kept connection ∧ Inv small ∧ small.decState = .awaitSync0 ∧
    small.cfg.maxPayload = connection.cfg.maxPayload :=
  ⟨(Connection.keepsDuties_iff _).1 witness_connection_duties _, by constructor <;> decide, rfl, rfl⟩
/-- A second feeder, and a TICK taken before a byte of the same time, break a duty. -/
theorem test_duties_broken :
    ¬Duty.oneFeeder.kept { connection with events := [⟨1, .controller 0, .feed 0xFF⟩] } ∧
    ¬Duty.feedFirstOnTie.kept { connection with events := [⟨5, .tickSource, .tick⟩, ⟨5, .rxFeeder, .feed 0xFF⟩] } := by
  unfold Duty.kept
  decide

end Sys2Proof.Tests
end

section
/-!
PROOFS of the statements on scope (spec/00_scope.md): one step is one command of the port, and no command touches the
configuration. The frame lemma of `exec` is general: it says once what every command keeps and what it adds.
-/
namespace Sys2Proof.Machine

/-! ### What a step is, by what stands at the head of the port (rules R4, R35) -/

theorem step_of_port_nil {s : State} (hport : s.port = []) : step s = .next s := by
  have hwait : s.accept = none := by simp [State.accept, hport]
  simp only [step, hwait]

theorem step_of_decode_ok {s : State} {c : Command} {rest : List Command} {i : Instr} (hport : s.port = c :: rest)
    (hdecode : decode c = .ok i) : step s = exec i { s with port := rest } := by
  simp only [step, State.accept_cons hport, hdecode]

/-! ### What every command keeps -/

/-- The frame of `exec`: every command completes, keeps the configuration and the commands still waiting, and adds one
response after those already given (rules R5, R35, R89, R106). -/
theorem exec_completes_frame (i : Instr) (s : State) :
    ∃ (t : State) (r : Response),
      exec i s = .next t ∧ t.cfg = s.cfg ∧ t.port = s.port ∧ t.responses = s.responses ++ [r] := by
  cases i with
  | feed b =>
    rw [execFeed_eq]
    rcases feedArm_cases b (restartTimer s) with
      ⟨cause, harm, -⟩ | ⟨-, -, harm⟩ | ⟨s', harm, hresponses, hcfg, hport, -⟩ <;> rw [harm]
    · exact ⟨_, .discarded cause, rfl, by simp, by simp, by simp⟩
    · exact ⟨_, .message _ _, rfl, rfl, rfl, rfl⟩
    · exact ⟨_, .pending, rfl, hcfg, hport, by simp [hresponses]⟩
  | tick =>
    show ∃ t r, execTick s = .next t ∧ _
    rcases execTick_cases s with ⟨-, htick⟩ | ⟨-, -, htick⟩ | ⟨-, -, htick⟩ <;> rw [htick]
    · exact ⟨_, .ok, rfl, rfl, rfl, rfl⟩
    · exact ⟨_, .timedOut .timeout, rfl, by simp, by simp, by simp⟩
    · exact ⟨_, .ok, rfl, rfl, rfl, rfl⟩
  | reset => exact ⟨_, .ok, rfl, rfl, rfl, rfl⟩
  | rdreg r =>
    obtain ⟨resp, hread⟩ := execRdreg_eq r s
    exact ⟨_, resp, hread, rfl, rfl, rfl⟩
  | encode t p => exact ⟨_, encodeResponse s.cfg.maxPayload t p, rfl, rfl, rfl, rfl⟩

/-- A command that gives a next state keeps the configuration. -/
theorem exec_keeps_cfg {i : Instr} {s t : State} (h : exec i s = .next t) : t.cfg = s.cfg := by
  obtain ⟨u, -, hu, hcfg, -, -⟩ := exec_completes_frame i s
  rw [hu] at h
  cases h
  exact hcfg

/-! ### The statements -/

/-- Settles O13: each of the three things a step can be keeps the configuration. -/
theorem configurationNeverChanges : Obligations.ConfigurationNeverChanges := by
  intro s t h
  rcases step_cases s with ⟨-, hstep⟩ | ⟨_, rest, i, -, -, hstep⟩ | ⟨_, rest, _, -, -, hstep⟩ <;> rw [hstep] at h
  · cases h
    rfl
  · exact (exec_keeps_cfg h : t.cfg = ({ s with port := rest } : State).cfg)
  · rw [illegalCommand_eq] at h
    cases h
    rfl

/-- Settles O8. -/
theorem stepRunsTheDecodedInstruction : Obligations.StepRunsTheDecodedInstruction :=
  fun _ _ _ _ hport hdecode => step_of_decode_ok hport hdecode

/-- Settles O10: nothing is accepted from an empty port. -/
theorem waitsWhenNoCommandIsPresented : Obligations.WaitsWhenNoCommandIsPresented :=
  fun _ hport => step_of_port_nil hport

end Sys2Proof.Machine
end

section
/-!
PROOFS of the statements on the architectural state (spec/10_state.md): its reset values, its invariants and their step
lemmas, the register map, the timer and the diagnostics.
-/
namespace Sys2Proof.Machine

/-! ### Steps: a property that neither the port nor a response touches is kept if every command keeps it -/

/-- What the step lemmas of both invariants share: a step waits, performs a command, or answers an illegal one. -/
theorem step_keeps {P : State → Prop} (haccept : ∀ s rest, P s → P { s with port := rest })
    (hrespond : ∀ s r, P s → P (s.respond r)) (hexec : ∀ i s t, P s → exec i s = .next t → P t)
    {s t : State} (hs : P s) (hstep : step s = .next t) : P t := by
  rcases step_cases s with ⟨-, h⟩ | ⟨_, rest, i, -, -, h⟩ | ⟨_, rest, _, -, -, h⟩ <;> rw [h] at hstep
  · cases hstep
    exact hs
  · exact hexec i _ _ (haccept s rest hs) hstep
  · rw [illegalCommand_eq] at hstep
    cases hstep
    exact hrespond _ _ (haccept s rest hs)

/-! ### The invariant, read by decoder state (rule R23) -/

/-- What rule R23 says of the decoder's fields in the one state it is in. Items 8 and 9 are left out: the timer's bound
is the same in every state, and a cause's code is at most 5 by its type. -/
def DecoderInv (s : State) : Prop :=
  match s.decState with
  | .awaitSync0 =>
    s.decLength = 0 ∧ s.decTopic = 0 ∧ s.decIndex = 0 ∧ s.decPayload = [] ∧ s.idleTicks = 0
  | .awaitSync1 => s.decLength = 0 ∧ s.decTopic = 0 ∧ s.decIndex = 0 ∧ s.decPayload = []
  | .readLength =>
    (s.decIndex = 0 ∨ s.decIndex = 1) ∧ (s.decIndex = 0 → s.decLength = 0) ∧ s.decTopic = 0 ∧ s.decPayload = []
  | .verifyLengthChecksum => s.decTopic = 0 ∧ s.decIndex = 0 ∧ s.decPayload = []
  | .readTopicId =>
    s.decLength.toNat ≤ s.cfg.maxPayload.toNat ∧
    (s.decIndex = 0 ∨ s.decIndex = 1) ∧ (s.decIndex = 0 → s.decTopic = 0) ∧ s.decPayload = []
  | .readPayload =>
    s.decLength.toNat ≤ s.cfg.maxPayload.toNat ∧
    1 ≤ s.decLength.toNat ∧ s.decIndex.toNat = s.decPayload.length ∧ s.decPayload.length < s.decLength.toNat
  | .verifyMessageChecksum =>
    s.decLength.toNat ≤ s.cfg.maxPayload.toNat ∧ s.decPayload.length = s.decLength.toNat ∧ s.decIndex = 0

theorem Cause.code_toNat_le (c : Cause) : c.code.toNat ≤ 5 := by
  cases c <;> decide

theorem inv_iff_decoderInv (s : State) :
    Inv s ↔ DecoderInv s ∧ s.idleTicks.toNat ≤ s.cfg.timeoutTicks.toNat := by
  constructor
  · intro h
    refine ⟨?_, h.idleBound⟩
    unfold DecoderInv
    cases hst : s.decState with
    | awaitSync0 => exact h.awaitSync0 hst
    | awaitSync1 => exact h.awaitSync1 hst
    | readLength => exact h.readLength hst
    | verifyLengthChecksum => exact h.verifyLength hst
    | readTopicId => exact ⟨h.lengthBound (.inl hst), h.readTopicId hst⟩
    | readPayload => exact ⟨h.lengthBound (.inr (.inl hst)), h.readPayload hst⟩
    | verifyMessageChecksum => exact ⟨h.lengthBound (.inr (.inr hst)), h.verifyMessage hst⟩
  · rintro ⟨hdec, hidle⟩
    unfold DecoderInv at hdec
    constructor
    case idleBound => exact hidle
    case causeCode => exact s.lastCause.code_toNat_le
    case lengthBound => rintro (hst | hst | hst) <;> rw [hst] at hdec <;> exact hdec.1
    case readTopicId => intro hst; rw [hst] at hdec; exact hdec.2
    case readPayload => intro hst; rw [hst] at hdec; exact hdec.2
    case verifyMessage => intro hst; rw [hst] at hdec; exact hdec.2
    all_goals intro hst; rw [hst] at hdec; exact hdec

/-- The states every failure, every MESSAGE and every reset leave: scanning, with the decoder's fields cleared. -/
theorem inv_of_cleared {s : State} (hst : s.decState = .awaitSync0 ∨ s.decState = .awaitSync1)
    (hlength : s.decLength = 0) (htopic : s.decTopic = 0) (hindex : s.decIndex = 0) (hpayload : s.decPayload = [])
    (hidle : s.idleTicks = 0) : Inv s := by
  refine (inv_iff_decoderInv s).2 ⟨?_, by simp [hidle]⟩
  rcases hst with hst | hst <;> simp [DecoderInv, *]

theorem inv_resetWith (c : Config) : Inv (State.resetWith c) :=
  inv_of_cleared (.inl rfl) rfl rfl rfl rfl rfl

theorem inv_discard (cause : Cause) (b : Byte) (s : State) : Inv (s.discard cause b) := by
  refine inv_of_cleared ?_ (State.discard_decLength _ _ _) (State.discard_decTopic _ _ _) (State.discard_decIndex _ _ _)
    (State.discard_decPayload _ _ _) (State.discard_idleTicks _ _ _)
  rw [State.discard_decState]
  split
  · exact .inr rfl
  · exact .inl rfl

theorem inv_timeOut (s : State) : Inv s.timeOut :=
  inv_of_cleared (.inl rfl) rfl rfl rfl rfl rfl

theorem Inv.withPort {s : State} (h : Inv s) (rest : List Command) : Inv { s with port := rest } :=
  { h with }

theorem Inv.respond {s : State} (h : Inv s) (r : Response) : Inv (s.respond r) :=
  { h with }

theorem inv_restartTimer {s : State} (h : Inv s) : Inv (restartTimer s) :=
  { h with
    awaitSync0 := fun hst => by
      obtain ⟨hlength, htopic, hindex, hpayload, -⟩ := h.awaitSync0 hst
      exact ⟨hlength, htopic, hindex, hpayload, rfl⟩
    idleBound := Nat.zero_le _ }

/-! ### FEED keeps the invariant, arm by arm (rules R67-R73) -/

theorem inv_armSync0 {s : State} (h : Inv s) (hst : s.decState = .awaitSync0) (b : Byte) : Inv (armSync0 b s) := by
  obtain ⟨hlength, htopic, hindex, hpayload, hidle⟩ := h.awaitSync0 hst
  unfold armSync0
  split
  · exact inv_of_cleared (.inr rfl) hlength htopic hindex hpayload hidle
  · exact h.respond _

theorem inv_armSync1 {s : State} (h : Inv s) (hst : s.decState = .awaitSync1) (b : Byte) : Inv (armSync1 b s) := by
  obtain ⟨hlength, htopic, -, hpayload⟩ := h.awaitSync1 hst
  unfold armSync1
  split
  · exact (inv_iff_decoderInv _).2 ⟨⟨.inl rfl, fun _ => hlength, htopic, hpayload⟩, h.idleBound⟩
  · exact inv_discard _ _ _

theorem inv_armLen {s : State} (h : Inv s) (hst : s.decState = .readLength) (b : Byte) : Inv (armLen b s) := by
  obtain ⟨-, -, htopic, hpayload⟩ := h.readLength hst
  rw [inv_iff_decoderInv]
  unfold armLen
  split
  · exact ⟨by simp [DecoderInv, hst, htopic, hpayload], h.idleBound⟩
  · exact ⟨⟨htopic, rfl, hpayload⟩, h.idleBound⟩

theorem inv_armLck {s : State} (h : Inv s) (hst : s.decState = .verifyLengthChecksum) (b : Byte) :
    Inv (armLck b s) := by
  obtain ⟨htopic, -, hpayload⟩ := h.verifyLength hst
  rcases armLck_cases b s with ⟨-, harm⟩ | ⟨-, -, harm⟩ | ⟨-, hbound, harm⟩ <;> rw [harm]
  · exact inv_discard _ _ _
  · exact inv_discard _ _ _
  · exact (inv_iff_decoderInv _).2 ⟨⟨hbound, .inl rfl, fun _ => htopic, hpayload⟩, h.idleBound⟩

/-- The high topic byte of an empty payload leads past ReadPayload, so the test on the length gives ReadPayload's
`dec_length ≥ 1`. -/
theorem inv_armTopic {s : State} (h : Inv s) (hst : s.decState = .readTopicId) (b : Byte) : Inv (armTopic b s) := by
  obtain ⟨-, -, hpayload⟩ := h.readTopicId hst
  have hbound := h.lengthBound (.inl hst)
  rw [inv_iff_decoderInv]
  unfold armTopic
  split
  · exact ⟨by simp [DecoderInv, hst, hpayload, hbound], h.idleBound⟩
  · refine ⟨?_, h.idleBound⟩
    by_cases hzero : s.decLength = 0#16
    · simp [DecoderInv, hzero, hpayload]
    · have hpos : 0 < s.decLength.toNat := Nat.pos_of_ne_zero fun h0 => hzero (BitVec.eq_of_toNat_eq h0)
      simp [DecoderInv, hzero, hpayload, hbound, hpos, Nat.one_le_iff_ne_zero, hpos.ne']

/-- The index of a payload byte stays below a u16 length, so it counts on without wrapping, and is again the number of
bytes collected. -/
theorem storePayload_decIndex_toNat {s : State} (h : Inv s) (hst : s.decState = .readPayload) (b : Byte) :
    (storePayload b s).decIndex.toNat = s.decPayload.length + 1 := by
  obtain ⟨-, hindex, hlt⟩ := h.readPayload hst
  rw [storePayload_decIndex]
  bv_omega

theorem inv_armPayload {s : State} (h : Inv s) (hst : s.decState = .readPayload) (b : Byte) :
    Inv (armPayload b s) := by
  obtain ⟨hpos, -, hlt⟩ := h.readPayload hst
  have hbound := h.lengthBound (.inr (.inl hst))
  have hindex := storePayload_decIndex_toNat h hst b
  have hcollected : (storePayload b s).decPayload.length = s.decPayload.length + 1 := by simp
  refine Inv.respond ((inv_iff_decoderInv _).2 ⟨?_, by simpa using h.idleBound⟩) _
  unfold closePayload
  split
  · next hlast =>
    rw [hlast] at hindex
    exact ⟨hbound, hcollected.trans hindex.symm, rfl⟩
  · next hmore =>
    have hne : s.decPayload.length + 1 ≠ s.decLength.toNat := fun heq =>
      hmore (BitVec.eq_of_toNat_eq (hindex.trans heq))
    simp only [DecoderInv, storePayload_decState, hst]
    exact ⟨hbound, hpos, hindex.trans hcollected.symm, hcollected.trans_lt (Nat.lt_of_le_of_ne hlt hne)⟩

theorem inv_armMck (b : Byte) (s : State) : Inv (armMck b s) := by
  rcases armMck_cases b s with ⟨-, harm⟩ | ⟨-, harm⟩ <;> rw [harm]
  · exact inv_of_cleared (.inl rfl) rfl rfl rfl rfl rfl
  · exact inv_discard _ _ _

theorem inv_feedArm {s : State} (h : Inv s) (b : Byte) : Inv (feedArm b s) := by
  unfold feedArm
  cases hst : s.decState with
  | awaitSync0 => exact inv_armSync0 h hst b
  | awaitSync1 => exact inv_armSync1 h hst b
  | readLength => exact inv_armLen h hst b
  | verifyLengthChecksum => exact inv_armLck h hst b
  | readTopicId => exact inv_armTopic h hst b
  | readPayload => exact inv_armPayload h hst b
  | verifyMessageChecksum => exact inv_armMck b s

/-! ### TICK, and every command -/

/-- A TICK that is counted: idle_ticks was below TIMEOUT_TICKS, so it reaches it at most. -/
theorem Inv.countTick {s : State} (h : Inv s) (hst : s.decState ≠ .awaitSync0)
    (hidle : s.idleTicks < s.cfg.timeoutTicks) : Inv { s with idleTicks := s.idleTicks + 1 } :=
  { h with
    awaitSync0 := fun hidling => absurd hidling hst
    idleBound := by
      show (s.idleTicks + 1).toNat ≤ s.cfg.timeoutTicks.toNat
      bv_omega }

theorem exec_keeps_inv (i : Instr) (s t : State) (h : Inv s) (hexec : exec i s = .next t) : Inv t := by
  cases i with
  | feed b =>
    cases hexec
    exact inv_feedArm (inv_restartTimer h) b
  | tick =>
    rcases execTick_cases s with ⟨-, htick⟩ | ⟨-, -, htick⟩ | ⟨hst, hidle, htick⟩ <;>
      cases htick.symm.trans hexec
    · exact h.respond _
    · exact inv_timeOut s
    · exact (h.countTick hst hidle).respond _
  | reset =>
    cases hexec
    exact inv_of_cleared (.inl rfl) rfl rfl rfl rfl rfl
  | rdreg r =>
    obtain ⟨resp, hread⟩ := execRdreg_eq r s
    cases hread.symm.trans hexec
    exact h.respond _
  | encode t p =>
    cases hexec
    exact h.respond _

/-- Settles O16: every command keeps the invariant, which neither the port nor a response touches. -/
theorem stepKeepsTheInvariant : Obligations.StepKeepsTheInvariant :=
  fun _ _ h hstep => step_keeps (fun _ rest h => h.withPort rest) (fun _ r h => h.respond r) exec_keeps_inv h hstep

/-! ### The payload buffer's invariant (rules R16, R25, R26) -/

theorem bufferInv_resetWith (c : Config) : BufferInv (State.resetWith c) where
  canonical := State.resetWith_pb_wf c
  bounded _ _ := rfl
  holds h := by simp at h

theorem BufferInv.withPort {s : State} (h : BufferInv s) (rest : List Command) : BufferInv { s with port := rest } :=
  { h with }

theorem BufferInv.respond {s : State} (h : BufferInv s) (r : Response) : BufferInv (s.respond r) :=
  { h with }

/-- Where no payload byte is collected, the buffer need only be left as it was. -/
theorem BufferInv.of_same_pb {s t : State} (h : BufferInv s) (hpb : t.pb = s.pb) (hcfg : t.cfg = s.cfg)
    (hpayload : t.decPayload = []) : BufferInv t where
  canonical := hpb ▸ h.canonical
  bounded := by
    rw [hpb, hcfg]
    exact h.bounded
  holds _ := by simp [hpayload, Memory.readFirst]

/-- FEED writes the payload buffer in ReadPayload alone (rule R25); every other arm leaves it, and no payload byte
collected: before ReadPayload there is none yet, and VerifyMessageChecksum always ends the frame. -/
theorem feedArm_outside_readPayload {s : State} (h : Inv s) (hst : s.decState ≠ .readPayload) (b : Byte) :
    (feedArm b s).pb = s.pb ∧ (feedArm b s).decPayload = [] := by
  cases hs : s.decState <;> simp only [feedArm, hs]
  case awaitSync0 =>
    obtain ⟨-, -, -, hpayload, -⟩ := h.awaitSync0 hs
    unfold armSync0
    split <;> exact ⟨rfl, hpayload⟩
  case awaitSync1 =>
    obtain ⟨-, -, -, hpayload⟩ := h.awaitSync1 hs
    unfold armSync1
    split
    · exact ⟨rfl, hpayload⟩
    · simp
  case readLength =>
    obtain ⟨-, -, -, hpayload⟩ := h.readLength hs
    unfold armLen
    split <;> exact ⟨rfl, hpayload⟩
  case verifyLengthChecksum =>
    obtain ⟨-, -, hpayload⟩ := h.verifyLength hs
    rcases armLck_cases b s with ⟨-, harm⟩ | ⟨-, -, harm⟩ | ⟨-, -, harm⟩ <;> simp [harm, hpayload]
  case readTopicId =>
    obtain ⟨-, -, hpayload⟩ := h.readTopicId hs
    unfold armTopic
    split <;> exact ⟨rfl, hpayload⟩
  case readPayload => exact absurd hs hst
  case verifyMessageChecksum =>
    rcases armMck_cases b s with ⟨-, harm⟩ | ⟨-, harm⟩ <;> simp [harm]

/-- The one write: at `dec_index`, which is the number of bytes collected and lies below MAX_PAYLOAD. -/
theorem bufferInv_armPayload {s : State} (hbuf : BufferInv s) (h : Inv s) (hst : s.decState = .readPayload) (b : Byte) :
    BufferInv (armPayload b s) := by
  obtain ⟨-, hindex, hlt⟩ := h.readPayload hst
  have hbound := h.lengthBound (.inr (.inl hst))
  refine BufferInv.respond (s := closePayload (storePayload b s)) ⟨?_, ?_, ?_⟩ _
  · simpa using Memory.wf_write _ _ hbuf.canonical
  · intro a ha
    have hcap : s.cfg.maxPayload.toNat ≤ a := by simpa [Config.pbCap] using ha
    have hne : a ≠ s.decIndex.toNat := by omega
    simpa [Memory.read_write_other _ _ hne] using hbuf.bounded a hcap
  · intro _
    simp [Memory.readFirst_succ, hindex, Memory.readFirst_write _ _ le_rfl, hbuf.holds (.inl hst)]

theorem feedArm_cfg (b : Byte) (s : State) : (feedArm b s).cfg = s.cfg := by
  rcases feedArm_cases b s with ⟨_, harm, -⟩ | ⟨-, -, harm⟩ | ⟨s', harm, -, hcfg, -⟩ <;> rw [harm]
  · exact State.discard_cfg _ _ _
  · rfl
  · exact hcfg

theorem bufferInv_feedArm {s : State} (hbuf : BufferInv s) (h : Inv s) (b : Byte) : BufferInv (feedArm b s) := by
  by_cases hst : s.decState = .readPayload
  · simpa only [feedArm, hst] using bufferInv_armPayload hbuf h hst b
  · obtain ⟨hpb, hpayload⟩ := feedArm_outside_readPayload h hst b
    exact hbuf.of_same_pb hpb (feedArm_cfg b s) hpayload

theorem exec_keeps_bufferInv (i : Instr) (s t : State) (h : Inv s) (hbuf : BufferInv s) (hexec : exec i s = .next t) :
    BufferInv t := by
  cases i with
  | feed b =>
    cases hexec
    exact bufferInv_feedArm (s := restartTimer s) { hbuf with } (inv_restartTimer h) b
  | tick =>
    rcases execTick_cases s with ⟨-, htick⟩ | ⟨-, -, htick⟩ | ⟨-, -, htick⟩ <;> cases htick.symm.trans hexec
    · exact hbuf.respond _
    · exact hbuf.of_same_pb rfl rfl rfl
    · exact { hbuf with }
  | reset =>
    cases hexec
    exact hbuf.of_same_pb rfl rfl rfl
  | rdreg r =>
    obtain ⟨resp, hread⟩ := execRdreg_eq r s
    cases hread.symm.trans hexec
    exact hbuf.respond _
  | encode t p =>
    cases hexec
    exact hbuf.respond _

/-- Settles O17: with the invariant, which bounds the index of the one write, every command keeps the buffer's. -/
theorem stepKeepsTheBufferInvariant : Obligations.StepKeepsTheBufferInvariant := by
  intro s t h hbuf hstep
  refine (step_keeps (P := fun s => Inv s ∧ BufferInv s) ?_ ?_ ?_ ⟨h, hbuf⟩ hstep).2
  · exact fun _ rest ⟨h, hbuf⟩ => ⟨h.withPort rest, hbuf.withPort rest⟩
  · exact fun _ r ⟨h, hbuf⟩ => ⟨h.respond r, hbuf.respond r⟩
  · exact fun i s t ⟨h, hbuf⟩ hexec => ⟨exec_keeps_inv i s t h hexec, exec_keeps_bufferInv i s t h hbuf hexec⟩

/-! ### The inactivity timer (rules R17, R84) -/

/-- Mid-frame below TIMEOUT_TICKS a TICK is counted. -/
theorem exec_tick_counts {s : State} (hst : s.decState ≠ .awaitSync0)
    (hidle : s.idleTicks.toNat < s.cfg.timeoutTicks.toNat) :
    exec .tick s = .next { s with idleTicks := s.idleTicks + 1, responses := s.responses ++ [.ok] } := by
  rcases execTick_cases s with ⟨hsync, -⟩ | ⟨-, hle, -⟩ | ⟨-, -, htick⟩
  · exact absurd hsync hst
  · exact absurd hle (Nat.not_le.2 hidle)
  · exact htick

/-- Mid-frame at TIMEOUT_TICKS a TICK times the frame out. -/
theorem exec_tick_timesOut {s : State} (hst : s.decState ≠ .awaitSync0)
    (hidle : s.cfg.timeoutTicks.toNat ≤ s.idleTicks.toNat) : exec .tick s = .next s.timeOut := by
  rcases execTick_cases s with ⟨hsync, -⟩ | ⟨-, -, htick⟩ | ⟨-, hlt, -⟩
  · exact absurd hsync hst
  · exact htick
  · exact absurd hidle (Nat.not_le.2 hlt)

/-- Up to TIMEOUT_TICKS of them, TICKs after a byte are all counted and answered OK. -/
theorem runInstrs_wait_counts {s : State} (hst : s.decState ≠ .awaitSync0) (hidle : s.idleTicks = 0) {n : Nat}
    (hn : n ≤ s.cfg.timeoutTicks.toNat) :
    runInstrs (wait n) s = .next { s with
      idleTicks := BitVec.ofNat 16 n
      responses := s.responses ++ List.replicate n .ok } := by
  induction n with
  | zero =>
    cases s
    cases hidle
    simp
  | succ n ih =>
    have := s.cfg.timeoutTicks.isLt
    rw [wait_succ_last, runInstrs_append (ih (by omega)), runInstrs_one, exec_tick_counts]
    · simp [List.replicate_succ', BitVec.ofNat_add]
    · exact hst
    · show (BitVec.ofNat 16 n).toNat < s.cfg.timeoutTicks.toNat
      rw [BitVec.toNat_ofNat, Nat.mod_eq_of_lt] <;> omega

/-- Settles O35: the TICKs up to TIMEOUT_TICKS by induction on their count, and one more at the bound. -/
theorem timeoutAtTickAfterTimeoutTicks : Obligations.TimeoutAtTickAfterTimeoutTicks := by
  intro s hst hidle
  refine ⟨fun n hn => runInstrs_wait_counts hst hidle hn, ?_⟩
  rw [wait_succ_last, runInstrs_append (runInstrs_wait_counts hst hidle le_rfl), runInstrs_one, exec_tick_timesOut]
  · rfl
  · exact hst
  · simp

/-! ### The register map (rules R21, R87) -/

theorem Reg.ofNumber_number (reg : Reg) : Reg.ofNumber reg.number = some reg := by
  cases reg <;> rfl

theorem Reg.number_toNat_le (reg : Reg) : reg.number.toNat ≤ 9 := by
  cases reg <;> decide

theorem Reg.ofNumber_reserved {r : Byte} (hr : 9 < r.toNat) : Reg.ofNumber r = none := by
  refine List.find?_eq_none.2 fun reg _ hreg => ?_
  have hle := reg.number_toNat_le
  rw [eq_of_beq hreg] at hle
  omega

/-- RDREG answers by the register its number names, or ILLEGAL where it names none. -/
theorem exec_rdreg_eq (r : Byte) (s : State) :
    exec (.rdreg r) s =
      .next (s.respond ((Reg.ofNumber r).elim .illegal fun reg => .regValue (readReg reg s))) := by
  show execRdreg r s = _
  unfold execRdreg
  cases Reg.ofNumber r <;> rfl

theorem exec_rdreg_number (reg : Reg) (s : State) :
    exec (.rdreg reg.number) s = .next (s.respond (.regValue (readReg reg s))) := by
  rw [exec_rdreg_eq, Reg.ofNumber_number, Option.elim_some]

/-- The words of RDREG: opcode 0x04 in bits [31:24], bits [23:8] zero, and the register's number (rule R50). -/
theorem decode_rdreg_word {r : Byte} (hr : r.toNat ≤ 9) :
    decode { word := BitVec.ofNat 32 (0x04000000 + r.toNat), vector := [] } = .ok (.rdreg r) := by
  have hop : opField (BitVec.ofNat 32 (0x04000000 + r.toNat)) = 0x04 := by
    apply BitVec.eq_of_toNat_eq
    simp [opField, Nat.shiftRight_eq_div_pow]
    omega
  have hbyte : byteField (BitVec.ofNat 32 (0x04000000 + r.toNat)) = r := by
    apply BitVec.eq_of_toNat_eq
    simp [byteField]
    omega
  have hreserved : (BitVec.ofNat 32 (0x04000000 + r.toNat)).extractLsb' 8 16 = 0 := by
    apply BitVec.eq_of_toNat_eq
    simp [Nat.shiftRight_eq_div_pow]
    omega
  have hlisted : registerListed r = true := by
    simpa [registerListed, BitVec.le_def] using hr
  simp [decode, plainCommand, hop, hbyte, hreserved, hlisted]

/-- Settles O40: each number of the map names its register, and the numbers above 9 name none. -/
theorem rdregReadsTheRegisterMap : Obligations.RdregReadsTheRegisterMap := by
  refine ⟨fun r hr => decode_rdreg_word hr, fun s => ?_⟩
  simp only [BitVec.ofNat_toNat, BitVec.setWidth_eq]
  refine ⟨exec_rdreg_number .decState s, exec_rdreg_number .decLength s, exec_rdreg_number .decTopic s,
    exec_rdreg_number .decIndex s, exec_rdreg_number .discardCount s, exec_rdreg_number .timeoutCount s,
    exec_rdreg_number .lastCause s, exec_rdreg_number .idleTicks s, exec_rdreg_number .cfgMaxPayload s,
    exec_rdreg_number .cfgTimeoutTicks s, fun r hr => ?_⟩
  rw [exec_rdreg_eq, Reg.ofNumber_reserved hr]
  rfl

/-! ### Diagnostics (rules R18-R20) -/

/-- What rules R18 to R20 say of one command: it took `s` to `t` and was answered `r`. -/
def DiagnosticsFollow (i : Instr) (r : Response) (s t : State) : Prop :=
  (i ≠ .reset →
    t.discardCount = s.discardCount + (if r.isDiscarded then 1 else 0) ∧
    t.timeoutCount = s.timeoutCount + (if r.isTimedOut then 1 else 0) ∧
    ((∀ c, r ≠ .discarded c ∧ r ≠ .timedOut c) → t.lastCause = s.lastCause)) ∧
  (∀ c, r = .discarded c → t.lastCause = c ∧ c ≠ .noCause ∧ c ≠ .timeout ∧ ∃ b, i = .feed b) ∧
  (∀ c, r = .timedOut c → t.lastCause = c ∧ c = .timeout ∧ i = .tick) ∧
  (i = .reset → t.discardCount = 0 ∧ t.timeoutCount = 0 ∧ t.lastCause = .noCause)

/-- A command other than RESET whose response tells of no resynchronisation only has to keep all three fields. -/
theorem diagnosticsFollow_of_kept {i : Instr} {r : Response} {s t : State} (hi : i ≠ .reset)
    (hdisc : r.isDiscarded = false) (htimed : r.isTimedOut = false) (hdiscard : t.discardCount = s.discardCount)
    (htimeout : t.timeoutCount = s.timeoutCount) (hcause : t.lastCause = s.lastCause) : DiagnosticsFollow i r s t := by
  refine ⟨fun _ => ⟨by simp [hdisc, hdiscard], by simp [htimed, htimeout], fun _ => hcause⟩, ?_, ?_,
    fun hreset => absurd hreset hi⟩
  · rintro c rfl
    cases hdisc
  · rintro c rfl
    cases htimed

theorem diagnosticsFollow_discard {c : Cause} (b : Byte) (s : State) (hnone : c ≠ .noCause) (htime : c ≠ .timeout) :
    DiagnosticsFollow (.feed b) (.discarded c) s (s.discard c b) := by
  simp [DiagnosticsFollow, Response.isDiscarded, Response.isTimedOut, hnone, htime]

theorem diagnosticsFollow_timeOut (s : State) : DiagnosticsFollow .tick (.timedOut .timeout) s s.timeOut := by
  simp [DiagnosticsFollow, Response.isDiscarded, Response.isTimedOut]

/-- Settles O44: each way a command can end either keeps the three fields or says in its response how they changed. -/
theorem diagnosticsFollowTheResponses : Obligations.DiagnosticsFollowTheResponses := by
  intro i s
  show ∃ t r, exec i s = .next t ∧ t.responses = s.responses ++ [r] ∧ DiagnosticsFollow i r s t
  cases i with
  | feed b =>
    rw [execFeed_eq]
    rcases feedArm_cases b (restartTimer s) with
      ⟨c, harm, hc⟩ | ⟨-, -, harm⟩ | ⟨s', harm, hresponses, -, -, hdiscard, htimeout, hcause, -⟩ <;> rw [harm]
    · have hnone : c ≠ .noCause := by rintro rfl; simp at hc
      have htime : c ≠ .timeout := by rintro rfl; simp at hc
      exact ⟨_, .discarded c, rfl, by simp, diagnosticsFollow_discard b (restartTimer s) hnone htime⟩
    · exact ⟨_, .message _ _, rfl, rfl, diagnosticsFollow_of_kept nofun rfl rfl rfl rfl rfl⟩
    · exact ⟨_, .pending, rfl, by simp [hresponses], diagnosticsFollow_of_kept nofun rfl rfl hdiscard htimeout hcause⟩
  | tick =>
    show ∃ t r, execTick s = .next t ∧ _
    rcases execTick_cases s with ⟨-, htick⟩ | ⟨-, -, htick⟩ | ⟨-, -, htick⟩ <;> rw [htick]
    · exact ⟨_, .ok, rfl, rfl, diagnosticsFollow_of_kept nofun rfl rfl rfl rfl rfl⟩
    · exact ⟨_, .timedOut .timeout, rfl, by simp, diagnosticsFollow_timeOut s⟩
    · exact ⟨_, .ok, rfl, rfl, diagnosticsFollow_of_kept nofun rfl rfl rfl rfl rfl⟩
  | reset => exact ⟨_, .ok, rfl, rfl, by simp [DiagnosticsFollow]⟩
  | rdreg r =>
    refine ⟨_, _, exec_rdreg_eq r s, rfl, diagnosticsFollow_of_kept nofun ?_ ?_ rfl rfl rfl⟩ <;>
      cases Reg.ofNumber r <;> rfl
  | encode t p =>
    refine ⟨_, encodeResponse s.cfg.maxPayload t p, rfl, rfl, diagnosticsFollow_of_kept nofun ?_ ?_ rfl rfl rfl⟩ <;>
      unfold encodeResponse <;> split <;> rfl

/-! ### Reset values and codes (rules R12, R24, R90) -/

/-- Settles O14: the record of rule R24, field by field, and the parameters' default values. -/
theorem powerOnResetValues : Obligations.PowerOnResetValues :=
  ⟨fun _ => ⟨rfl, rfl, rfl, rfl, rfl, rfl, rfl, rfl, rfl⟩, rfl⟩

/-- Settles O15. -/
theorem resetMeetsTheInvariants : Obligations.ResetMeetsTheInvariants :=
  fun c => ⟨inv_resetWith c, bufferInv_resetWith c⟩

/-- Settles O41. -/
theorem stateAndCauseCodes : Obligations.StateAndCauseCodes :=
  ⟨rfl, rfl⟩

end Sys2Proof.Machine
end

section
/-!
PROOFS of the statements on memory, words and the command port (spec/20_memory.md): the byte order of a link, the port's
order of commands, and FEED's and RESET's access to the state. The key fact about the port is that no command reads the
commands still waiting (`exec_withPort`), so a run may be moved to any port that begins with the same commands.
-/
namespace Sys2Proof.Machine

/-! ### Words over a byte-wide link (rule R28) -/

/-- The four bytes of a word, least significant first, assemble to the word again. -/
theorem wordOfBytes_bytes (w : Word) :
    wordOfBytes (w.extractLsb' 0 8) (w.extractLsb' 8 8) (w.extractLsb' 16 8) (w.extractLsb' 24 8) = w :=
  calc
    wordOfBytes (w.extractLsb' 0 8) (w.extractLsb' 8 8) (w.extractLsb' 16 8) (w.extractLsb' 24 8)
      = w.extractLsb' 16 16 ++ w.extractLsb' 8 8 ++ w.extractLsb' 0 8 := by
        rw [wordOfBytes, BitVec.extractLsb'_append_extractLsb'_eq_extractLsb' (by decide)]
    _ = w.extractLsb' 8 24 ++ w.extractLsb' 0 8 := by
        rw [BitVec.extractLsb'_append_extractLsb'_eq_extractLsb' (by decide)]
    _ = w := BitVec.extractLsb'_append_extractLsb'

theorem commandOfBytes_bytesOfWord (w : Word) (vector : List Byte) :
    commandOfBytes (bytesOfWord w ++ vector) = some { word := w, vector := vector } := by
  simp [bytesOfWord, commandOfBytes, wordOfBytes_bytes]

/-- Settles O5: the link's bytes carry the transaction, so decoding them is decoding it. -/
theorem linkBytesDecodeAsTheWord : Obligations.LinkBytesDecodeAsTheWord := by
  intro c
  simp only [decodeBytes, commandOfBytes_bytesOfWord]

/-! ### The decoder reads back what the encoder wrote (rules R48-R50) -/

/-- Bits [7:0] of a word laid out as FEED's and RDREG's are. -/
theorem byteField_append (op b : Byte) (reserved : BitVec 16) : byteField (op ++ (reserved ++ b)) = b := by
  rw [byteField, BitVec.extractLsb'_append_eq_of_add_le (by decide), BitVec.extractLsb'_append_eq_right]

/-- Bits [23:8] of a word laid out as FEED's and RDREG's are. -/
theorem reservedBits_append (op b : Byte) (reserved : BitVec 16) :
    (op ++ (reserved ++ b) : Word).extractLsb' 8 16 = reserved := by
  rw [BitVec.extractLsb'_append_eq_of_add_le (by decide), BitVec.extractLsb'_append_eq_left]

/-- Bits [15:0] of a word laid out as ENCODE's is. -/
theorem topicField_append (op reserved : Byte) (t : Half) : topicField (op ++ (reserved ++ t)) = t := by
  rw [topicField, BitVec.extractLsb'_append_eq_of_add_le (by decide), BitVec.extractLsb'_append_eq_right]

/-- Bits [23:16] of a word laid out as ENCODE's is. -/
theorem reservedByte_append (op reserved : Byte) (t : Half) :
    (op ++ (reserved ++ t) : Word).extractLsb' 16 8 = reserved := by
  rw [BitVec.extractLsb'_append_eq_of_add_le (by decide), BitVec.extractLsb'_append_eq_left]

/-- Decoding an encoded well-formed instruction gives it back. -/
theorem decode_encode {i : Instr} (h : i.wellFormed = true) : decode (encode i) = .ok i := by
  cases i with
  | feed b =>
    obtain ⟨hop, -, -⟩ := Laws.EncodedWord.feed b
    have hbyte : byteField (encode (.feed b)).word = b := byteField_append _ b 0
    have hreserved : (encode (.feed b)).word.extractLsb' 8 16 = 0 := reservedBits_append _ b 0
    have hvector : (encode (.feed b)).vector = [] := rfl
    simp [decode, plainCommand, hop, hbyte, hreserved, hvector, Instr.opcode]
  | tick => rfl
  | reset => rfl
  | rdreg r =>
    obtain ⟨hop, -, -⟩ := Laws.EncodedWord.rdreg r
    have hbyte : byteField (encode (.rdreg r)).word = r := byteField_append _ r 0
    have hreserved : (encode (.rdreg r)).word.extractLsb' 8 16 = 0 := reservedBits_append _ r 0
    have hvector : (encode (.rdreg r)).vector = [] := rfl
    have hlisted : registerListed r = true := h
    simp [decode, plainCommand, hop, hbyte, hreserved, hvector, hlisted, Instr.opcode]
  | encode t p =>
    obtain ⟨hop, -, -⟩ := Laws.EncodedWord.encode t p
    have htopic : topicField (encode (.encode t p)).word = t := topicField_append _ 0 t
    have hreserved : (encode (.encode t p)).word.extractLsb' 16 8 = 0 := reservedByte_append _ 0 t
    have hvector : (encode (.encode t p)).vector = p := rfl
    simp [decode, hop, htopic, hreserved, hvector, Instr.opcode]

/-! ### No command reads the commands still waiting (rules R32, R35) -/

theorem discard_withPort (cause : Cause) (b : Byte) (s : State) (port : List Command) :
    State.discard cause b { s with port := port } = { s.discard cause b with port := port } := by
  unfold State.discard State.rescan
  split <;> rfl

theorem armSync0_withPort (b : Byte) (s : State) (port : List Command) :
    armSync0 b { s with port := port } = { armSync0 b s with port := port } := by
  unfold armSync0
  split <;> rfl

theorem armSync1_withPort (b : Byte) (s : State) (port : List Command) :
    armSync1 b { s with port := port } = { armSync1 b s with port := port } := by
  unfold armSync1
  split
  · rfl
  · exact discard_withPort _ b s port

theorem armLen_withPort (b : Byte) (s : State) (port : List Command) :
    armLen b { s with port := port } = { armLen b s with port := port } := by
  unfold armLen
  split <;> rfl

theorem armLck_withPort (b : Byte) (s : State) (port : List Command) :
    armLck b { s with port := port } = { armLck b s with port := port } := by
  cases hverdict : lenCheck s.cfg.maxPayload s.decLength b <;> simp only [armLck, hverdict]
  case badLengthChecksum => exact discard_withPort _ b s port
  case oversizedLength => exact discard_withPort _ b s port
  case ok => rfl

theorem armTopic_withPort (b : Byte) (s : State) (port : List Command) :
    armTopic b { s with port := port } = { armTopic b s with port := port } := by
  unfold armTopic
  split <;> rfl

theorem closePayload_withPort (s : State) (port : List Command) :
    closePayload { s with port := port } = { closePayload s with port := port } := by
  unfold closePayload
  split <;> rfl

theorem armPayload_withPort (b : Byte) (s : State) (port : List Command) :
    armPayload b { s with port := port } = { armPayload b s with port := port } :=
  congrArg (State.respond .pending) (closePayload_withPort (storePayload b s) port)

theorem armMck_withPort (b : Byte) (s : State) (port : List Command) :
    armMck b { s with port := port } = { armMck b s with port := port } := by
  unfold armMck
  split
  · rfl
  · exact discard_withPort _ b s port

theorem feedArm_withPort (b : Byte) (s : State) (port : List Command) :
    feedArm b { s with port := port } = { feedArm b s with port := port } := by
  cases hs : s.decState
  case awaitSync0 => simpa only [feedArm, hs] using armSync0_withPort b s port
  case awaitSync1 => simpa only [feedArm, hs] using armSync1_withPort b s port
  case readLength => simpa only [feedArm, hs] using armLen_withPort b s port
  case verifyLengthChecksum => simpa only [feedArm, hs] using armLck_withPort b s port
  case readTopicId => simpa only [feedArm, hs] using armTopic_withPort b s port
  case readPayload => simpa only [feedArm, hs] using armPayload_withPort b s port
  case verifyMessageChecksum => simpa only [feedArm, hs] using armMck_withPort b s port

/-- A command does the same whatever waits behind it, and leaves that waiting. -/
theorem exec_withPort {i : Instr} {s t : State} (h : exec i s = .next t) (port : List Command) :
    exec i { s with port := port } = .next { t with port := port } := by
  cases i with
  | feed b =>
    cases h
    exact congrArg Host.Outcome.next (feedArm_withPort b (restartTimer s) port)
  | tick =>
    rcases execTick_cases s with ⟨hst, htick⟩ | ⟨hst, hle, htick⟩ | ⟨hst, hlt, htick⟩ <;> cases htick.symm.trans h
    · exact if_pos hst
    · exact exec_tick_timesOut (s := { s with port := port }) hst hle
    · exact exec_tick_counts (s := { s with port := port }) hst hlt
  | reset =>
    cases h
    rfl
  | rdreg r =>
    rw [exec_rdreg_eq] at h ⊢
    cases h
    rfl
  | encode t p =>
    cases h
    rfl

/-! ### Runs over the port (rules R35, R75) -/

theorem step_of_decode_error {s : State} {c : Command} {rest : List Command} {e : DecodeError}
    (hport : s.port = c :: rest) (hdecode : decode c = .error e) :
    step s = .next (State.respond .illegal { s with port := rest }) := by
  simp only [step, State.accept_cons hport, hdecode, illegalCommand_eq]

/-- Every step completes: the machine has no state in which it stops (rule R89). -/
theorem step_completes (s : State) : ∃ t : State, step s = .next t := by
  rcases step_cases s with ⟨-, hstep⟩ | ⟨_, rest, i, -, -, hstep⟩ | ⟨_, rest, _, -, -, hstep⟩ <;> rw [hstep]
  · exact ⟨s, rfl⟩
  · obtain ⟨t, -, hexec, -⟩ := exec_completes_frame i { s with port := rest }
    exact ⟨t, hexec⟩
  · exact ⟨_, illegalCommand_eq _⟩

theorem run_succ {s t : State} (h : step s = .next t) (n : Nat) : core.run (n + 1) s = core.run n t := by
  have hstep : core.step s = .next t := h
  simp only [Host.Core.run, hstep]

/-- A run goes on from where its first steps ended. -/
theorem run_add {m : Nat} {s t : State} (h : core.run m s = .next t) (n : Nat) :
    core.run (m + n) s = core.run n t := by
  induction m generalizing s with
  | zero =>
    cases h
    rw [Nat.zero_add]
  | succ m ih =>
    obtain ⟨u, hu⟩ := step_completes s
    rw [run_succ hu] at h
    rw [Nat.succ_add, run_succ hu, ih h]

/-- A transaction, legal or not, is performed the same whatever waits behind it. -/
theorem step_on_port (c : Command) (s : State) :
    ∃ t : State, ∀ rest, step { s with port := c :: rest } = .next { t with port := rest } := by
  cases hdecode : decode c with
  | ok i =>
    obtain ⟨t, -, hexec, -⟩ := exec_completes_frame i s
    exact ⟨t, fun rest => (step_of_decode_ok rfl hdecode).trans (exec_withPort hexec rest)⟩
  | error e => exact ⟨s.respond .illegal, fun _ => step_of_decode_error rfl hdecode⟩

/-- As many steps as a chunk has transactions perform the chunk, the same whatever waits behind it. -/
theorem run_on_port (cs : List Command) (s : State) :
    ∃ t : State, ∀ rest, core.run cs.length { s with port := cs ++ rest } = .next { t with port := rest } := by
  induction cs generalizing s with
  | nil => exact ⟨s, fun _ => rfl⟩
  | cons c cs ih =>
    obtain ⟨t, hstep⟩ := step_on_port c s
    obtain ⟨u, hrun⟩ := ih t
    exact ⟨u, fun rest => (run_succ (hstep (cs ++ rest)) cs.length).trans (hrun rest)⟩

/-- Settles O12: the first chunk's run leaves the second chunk waiting, whether it was presented with the first or is
presented now. -/
theorem chunkBoundariesDoNotMatter : Obligations.ChunkBoundariesDoNotMatter := by
  intro cs ds s _
  obtain ⟨t, hfirst⟩ := run_on_port cs s
  obtain ⟨u, hsecond⟩ := run_on_port ds t
  refine ⟨{ t with port := [] }, { u with port := [] }, ?_, ?_, ?_⟩
  · simpa using hfirst []
  · simpa using hsecond []
  · rw [run_add (hfirst ds)]
    simpa using hsecond []

/-- Settles O11: each step accepts the head of the port, whose word decodes to the instruction it encodes, and leaves
the rest of the encodings waiting. -/
theorem portRunIsCommandSequence : Obligations.PortRunIsCommandSequence := by
  intro is rest s hwf hport
  induction is generalizing s with
  | nil =>
    obtain rfl : s.port = rest := hport
    exact ⟨s, rfl, rfl⟩
  | cons i is ih =>
    obtain ⟨hi, his⟩ := List.forall_mem_cons.1 hwf
    obtain ⟨t, -, hexec, -, hwaiting, -⟩ := exec_completes_frame i { s with port := is.map encode ++ rest }
    obtain ⟨u, hinstrs, hrun⟩ := ih t his hwaiting
    have hstep : step s = .next t := (step_of_decode_ok hport (decode_encode hi)).trans hexec
    exact ⟨u, (runInstrs_cons (exec_withPort hexec rest) is).trans hinstrs, (run_succ hstep is.length).trans hrun⟩

/-! ### FEED's accesses (rules R31, R65) -/

/-- FEED writes the payload buffer in ReadPayload alone, at `dec_index` alone (rule R25), in any state. -/
theorem feedArm_read_other {s : State} {a : Nat} (h : ¬(s.decState = .readPayload ∧ a = s.decIndex.toNat)) (b : Byte) :
    Memory.read (feedArm b s).pb a = Memory.read s.pb a := by
  cases hs : s.decState <;> simp only [feedArm, hs]
  case awaitSync0 =>
    unfold armSync0
    split <;> rfl
  case awaitSync1 =>
    unfold armSync1
    split
    · rfl
    · rw [State.discard_pb]
  case readLength =>
    unfold armLen
    split <;> rfl
  case verifyLengthChecksum =>
    rcases armLck_cases b s with ⟨-, harm⟩ | ⟨-, -, harm⟩ | ⟨-, -, harm⟩ <;> simp [harm]
  case readTopicId =>
    unfold armTopic
    split <;> rfl
  case readPayload =>
    have hne : a ≠ s.decIndex.toNat := fun ha => h ⟨hs, ha⟩
    simp [armPayload, Memory.read_write_other _ _ hne]
  case verifyMessageChecksum =>
    rcases armMck_cases b s with ⟨-, harm⟩ | ⟨-, harm⟩ <;> simp [harm]

/-- Settles O32: the three ways a FEED can end give its frame; the one write gives the buffer's. -/
theorem feedFrame : Obligations.FeedFrame := by
  intro b s
  have hread : ∀ a, ¬(s.decState = .readPayload ∧ a = s.decIndex.toNat) →
      Memory.read (feedArm b (restartTimer s)).pb a = Memory.read s.pb a :=
    fun _ ha => feedArm_read_other (s := restartTimer s) ha b
  rw [execFeed_eq]
  rcases feedArm_cases b (restartTimer s) with
    ⟨cause, harm, -⟩ | ⟨-, -, harm⟩ |
      ⟨s', harm, hresponses, hcfg, hport, hdiscard, htimeout, hcause, hidle⟩ <;> rw [harm] at hread ⊢
  · exact ⟨_, .discarded cause, rfl, by simp, .inr (.inr ⟨cause, rfl⟩), by simp, by simp, by simp, by simp,
      fun hkept => absurd rfl (hkept cause), hread⟩
  · exact ⟨_, .message _ _, rfl, rfl, .inr (.inl ⟨_, _, rfl⟩), rfl, rfl, rfl, rfl, fun _ => ⟨rfl, rfl⟩, hread⟩
  · exact ⟨_, .pending, rfl, by simp [hresponses], .inl rfl, hcfg, hport, htimeout, hidle,
      fun _ => ⟨hdiscard, hcause⟩, hread⟩

/-! ### RESET's idempotency (rule R33) -/

/-- RESET: the decoder idle, the diagnostics cleared, the configuration and the buffer as they were (rule R86). -/
theorem exec_reset_eq (s : State) :
    exec .reset s = .next { afterIdle .ok s with discardCount := 0, timeoutCount := 0, lastCause := .noCause } := rfl

/-- Settles O39: every field the second RESET clears is clear already. -/
theorem resetIsIdempotent : Obligations.ResetIsIdempotent :=
  fun s => ⟨_, exec_reset_eq s, exec_reset_eq _⟩

end Sys2Proof.Machine
end

section
/-!
PROOFS of the statements on command words, responses and the assembler (spec/30_encoding.md). The decoder has one
equation per opcode of rule R49, and so has rule R51's list of illegal commands. A transaction that decodes is the
encoding of its instruction (`encode_of_decode`), so what holds of encoded instructions holds of it.
-/
namespace Sys2Proof.Machine

/-! ### The decoder, opcode by opcode (rules R49, R50) -/

/-- The opcodes of rule R49. -/
def listedOpcodes : List Byte := [0x01, 0x02, 0x03, 0x04, 0x10]

theorem mem_listedOpcodes_iff {op : Byte} :
    op ∈ listedOpcodes ↔ op = 0x01 ∨ op = 0x02 ∨ op = 0x03 ∨ op = 0x04 ∨ op = 0x10 := by
  simp [listedOpcodes]

theorem decode_of_opcode_feed {c : Command} (hop : opField c.word = 0x01) :
    decode c = plainCommand (c.word.extractLsb' 8 16 != 0) c.vector (.feed (byteField c.word)) := by
  simp [decode, hop]

theorem decode_of_opcode_tick {c : Command} (hop : opField c.word = 0x02) :
    decode c = plainCommand (c.word.extractLsb' 0 24 != 0) c.vector .tick := by
  simp [decode, hop]

theorem decode_of_opcode_reset {c : Command} (hop : opField c.word = 0x03) :
    decode c = plainCommand (c.word.extractLsb' 0 24 != 0) c.vector .reset := by
  simp [decode, hop]

theorem decode_of_opcode_rdreg {c : Command} (hop : opField c.word = 0x04) :
    decode c =
      if registerListed (byteField c.word) then
        plainCommand (c.word.extractLsb' 8 16 != 0) c.vector (.rdreg (byteField c.word))
      else .error (.reservedRegister (byteField c.word)) := by
  simp [decode, hop]

theorem decode_of_opcode_encode {c : Command} (hop : opField c.word = 0x10) :
    decode c =
      if c.word.extractLsb' 16 8 = 0 then .ok (.encode (topicField c.word) c.vector)
      else .error .reservedBit := by
  simp [decode, hop]

theorem decode_of_opcode_unlisted {c : Command} (hop : opField c.word ∉ listedOpcodes) :
    decode c = .error (.unlistedOpcode (opField c.word)) := by
  simp only [mem_listedOpcodes_iff, not_or] at hop
  obtain ⟨hfeed, htick, hreset, hrdreg, hencode⟩ := hop
  simp only [decode, hfeed, htick, hreset, hrdreg, hencode, if_false]

/-- A command without a vector decodes when its reserved bits are 0 and no vector comes with it. -/
theorem plainCommand_eq_ok_iff {n : Nat} {reserved : BitVec n} {vector : List Byte} {i j : Instr} :
    plainCommand (reserved != 0) vector i = .ok j ↔ reserved = 0 ∧ vector = [] ∧ i = j := by
  unfold plainCommand
  by_cases hreserved : reserved = 0
  · cases vector <;> simp [hreserved]
  · simp only [bne_iff_ne, ne_eq, hreserved, not_false_eq_true, if_true, reduceCtorEq, false_and]

theorem plainCommand_refuses_iff {n : Nat} {reserved : BitVec n} {vector : List Byte} {i : Instr} :
    (∀ j, plainCommand (reserved != 0) vector i ≠ .ok j) ↔ reserved ≠ 0 ∨ vector ≠ [] := by
  simp only [ne_eq, plainCommand_eq_ok_iff, not_and]
  exact ⟨fun h => or_iff_not_imp_left.2 fun hr hv => h i (not_not.1 hr) hv rfl,
    fun h _ hr hv => (h.elim (· hr) (· hv)).elim⟩

/-! ### A word is its opcode and its operand bits (rule R50) -/

/-- A transaction whose fields are those of `i` is the encoding of `i`: opcode and operand bits cover the word. -/
theorem encode_eq_of_fields {i : Instr} {c : Command} (hop : opField c.word = i.opcode)
    (hoperand : c.word.extractLsb' 0 24 = i.operandBits) (hvector : c.vector = i.payloadVector) : encode i = c := by
  have hword : i.opcode ++ i.operandBits = c.word := by
    rw [← hop, ← hoperand]
    exact BitVec.extractLsb'_append_extractLsb'
  exact congrArg₂ Command.mk hword hvector.symm

/-- The operand bits of FEED and RDREG: bits [23:8] and [7:0]. -/
theorem operand_eq_append_byteField (w : Word) :
    w.extractLsb' 0 24 = w.extractLsb' 8 16 ++ byteField w := by
  rw [byteField, BitVec.extractLsb'_append_extractLsb'_eq_extractLsb' (by decide)]

/-- The operand bits of ENCODE: bits [23:16] and [15:0]. -/
theorem operand_eq_append_topicField (w : Word) :
    w.extractLsb' 0 24 = w.extractLsb' 16 8 ++ topicField w := by
  rw [topicField, BitVec.extractLsb'_append_extractLsb'_eq_extractLsb' (by decide)]

/-- The decoder drops no bit: what it accepts is the encoding of the well-formed instruction it gives. -/
theorem encode_of_decode {c : Command} {i : Instr} (h : decode c = .ok i) : i.wellFormed = true ∧ encode i = c := by
  by_cases hlisted : opField c.word ∈ listedOpcodes
  · rcases mem_listedOpcodes_iff.1 hlisted with hop | hop | hop | hop | hop
    · rw [decode_of_opcode_feed hop] at h
      obtain ⟨hreserved, hvector, rfl⟩ := plainCommand_eq_ok_iff.1 h
      exact ⟨rfl, encode_eq_of_fields hop (by rw [operand_eq_append_byteField, hreserved]; rfl) hvector⟩
    · rw [decode_of_opcode_tick hop] at h
      obtain ⟨hreserved, hvector, rfl⟩ := plainCommand_eq_ok_iff.1 h
      exact ⟨rfl, encode_eq_of_fields hop hreserved hvector⟩
    · rw [decode_of_opcode_reset hop] at h
      obtain ⟨hreserved, hvector, rfl⟩ := plainCommand_eq_ok_iff.1 h
      exact ⟨rfl, encode_eq_of_fields hop hreserved hvector⟩
    · rw [decode_of_opcode_rdreg hop] at h
      split at h
      · next hregister =>
        obtain ⟨hreserved, hvector, rfl⟩ := plainCommand_eq_ok_iff.1 h
        exact ⟨hregister, encode_eq_of_fields hop (by rw [operand_eq_append_byteField, hreserved]; rfl) hvector⟩
      · cases h
    · rw [decode_of_opcode_encode hop] at h
      split at h
      · next hreserved =>
        cases h
        exact ⟨rfl, encode_eq_of_fields hop (by rw [operand_eq_append_topicField, hreserved]; rfl) rfl⟩
      · cases h
  · rw [decode_of_opcode_unlisted hlisted] at h
    cases h

/-- Settles O1. -/
theorem decodeEncodeRoundTrip : Obligations.DecodeEncodeRoundTrip :=
  ⟨fun _ hwf => decode_encode hwf, fun _ _ hdecode => encode_of_decode hdecode⟩

/-! ### Rule R51's items in the decoder's fields (rules R51, R88) -/

/-- The opcode as a number and as the decoder's field name the same opcode. -/
theorem opNumber_eq_toNat (c : Command) : c.opNumber = (opField c.word).toNat := by
  rw [Command.opNumber, opField, BitVec.extractLsb'_toNat, Nat.shiftRight_eq_div_pow, Nat.mod_eq_of_lt]
  have := c.word.isLt
  omega

/-- A field of a word, read with division and remainder, is 0 exactly when its bits are. -/
theorem div_mod_eq_zero_iff (w : Word) (start len : Nat) :
    w.toNat / 2 ^ start % 2 ^ len = 0 ↔ w.extractLsb' start len = 0 := by
  rw [← BitVec.toNat_inj, BitVec.extractLsb'_toNat, Nat.shiftRight_eq_div_pow]
  rfl

theorem registerListed_byteField (w : Word) : registerListed (byteField w) = decide (w.toNat % 2 ^ 8 ≤ 9) := by
  simp [registerListed, byteField, BitVec.le_def]

theorem opField_eq_iff (c : Command) (op : Byte) : opField c.word = op ↔ c.opNumber = op.toNat := by
  rw [opNumber_eq_toNat, BitVec.toNat_inj]

theorem opcodeUnlisted_iff (c : Command) : c.opcodeUnlisted = true ↔ opField c.word ∉ listedOpcodes := by
  simp [Command.opcodeUnlisted, mem_listedOpcodes_iff, opField_eq_iff]

theorem reservedBitSet_iff (c : Command) :
    c.reservedBitSet = true ↔
      ((opField c.word = 0x01 ∨ opField c.word = 0x04) ∧ c.word.extractLsb' 8 16 ≠ 0) ∨
      ((opField c.word = 0x02 ∨ opField c.word = 0x03) ∧ c.word.extractLsb' 0 24 ≠ 0) ∨
      (opField c.word = 0x10 ∧ c.word.extractLsb' 16 8 ≠ 0) := by
  simp only [ne_eq, ← div_mod_eq_zero_iff, opField_eq_iff]
  unfold Command.reservedBitSet
  split <;> simp_all

theorem strayVector_iff (c : Command) : c.strayVector = true ↔ c.vector ≠ [] ∧ opField c.word ≠ 0x10 := by
  simp [Command.strayVector, opField_eq_iff]

theorem unlistedRegister_iff (c : Command) :
    c.unlistedRegister = true ↔ opField c.word = 0x04 ∧ registerListed (byteField c.word) = false := by
  simp [Command.unlistedRegister, registerListed_byteField, opField_eq_iff]

theorem illegal_iff (c : Command) :
    c.illegal = true ↔
      c.opcodeUnlisted = true ∨ c.reservedBitSet = true ∨ c.strayVector = true ∨ c.unlistedRegister = true := by
  simp only [Command.illegal, Bool.or_eq_true, or_assoc]

/-- The decoder refuses exactly the commands rule R51 calls illegal. -/
theorem illegal_iff_refused (c : Command) : c.illegal = true ↔ ∀ i, decode c ≠ .ok i := by
  rw [illegal_iff, opcodeUnlisted_iff, reservedBitSet_iff, strayVector_iff, unlistedRegister_iff]
  by_cases hlisted : opField c.word ∈ listedOpcodes
  · rcases mem_listedOpcodes_iff.1 hlisted with hop | hop | hop | hop | hop
    · rw [decode_of_opcode_feed hop, plainCommand_refuses_iff]
      simp [mem_listedOpcodes_iff, hop]
    · rw [decode_of_opcode_tick hop, plainCommand_refuses_iff]
      simp [mem_listedOpcodes_iff, hop]
    · rw [decode_of_opcode_reset hop, plainCommand_refuses_iff]
      simp [mem_listedOpcodes_iff, hop]
    · rw [decode_of_opcode_rdreg hop]
      split
      · next hregister =>
        rw [plainCommand_refuses_iff]
        simp [mem_listedOpcodes_iff, hop, hregister]
      · next hregister => simp [hop, hregister]
    · rw [decode_of_opcode_encode hop]
      split
      · next hreserved => simp [mem_listedOpcodes_iff, hop, hreserved]
      · next hreserved => simpa [mem_listedOpcodes_iff, hop] using hreserved
  · simp [hlisted, decode_of_opcode_unlisted]

/-- Settles O2: what the decoder refuses, a step only answers. -/
theorem illegalCommandsOnlyAnswer : Obligations.IllegalCommandsOnlyAnswer := by
  refine fun c => ⟨illegal_iff_refused c, fun hillegal s rest hport => ?_⟩
  cases hdecode : decode c with
  | ok i => exact absurd hdecode ((illegal_iff_refused c).1 hillegal i)
  | error e => exact step_of_decode_error hport hdecode

/-! ### The opcode table (rule R50) -/

/-- The word of every instruction lies in its own row of the table alone. -/
theorem encodedWord_statement (i : Instr) : Laws.EncodedWord.Statement i := by
  cases i with
  | feed b => exact Laws.EncodedWord.feed b
  | tick => exact Laws.EncodedWord.tick
  | reset => exact Laws.EncodedWord.reset
  | rdreg r => exact Laws.EncodedWord.rdreg r
  | encode t p => exact Laws.EncodedWord.encode t p

/-- Settles O3: a transaction that decodes is an encoded instruction, and its word lies in that instruction's row. -/
theorem decodedWordLiesInItsTableRow : Obligations.DecodedWordLiesInItsTableRow := by
  intro c i hdecode
  obtain ⟨-, rfl⟩ := encode_of_decode hdecode
  obtain ⟨-, hrow, -⟩ := encodedWord_statement i
  exact hrow

/-- Settles O4: each word is the encoding of the command it stands for. -/
theorem sampleWordsDecode : Obligations.SampleWordsDecode :=
  ⟨decode_encode (i := .feed 0xFF) rfl, decode_encode (i := .tick) rfl, decode_encode (i := .reset) rfl,
    decode_encode (i := .rdreg 0x09) rfl, decode_encode (i := .encode 0x0005 [0x01, 0x02, 0x03]) rfl⟩

/-! ### Response words (rule R53) -/

/-- The header's three fields lie at bits 24, 16 and 0. -/
theorem Response.header_toNat (r : Response) :
    r.header.toNat = 0x1000000 * r.kindCode.toNat + 0x10000 * r.causeField.toNat + r.topicField.toNat := by
  rw [Response.header, BitVec.toNat_append, ← Nat.shiftLeft_add_eq_or_of_lt r.topicField.isLt, BitVec.toNat_append,
    ← Nat.shiftLeft_add_eq_or_of_lt r.causeField.isLt, Nat.shiftLeft_eq, Nat.shiftLeft_eq]
  omega

/-- Settles O6: each kind's fields put together. -/
theorem responseHeaders : Obligations.ResponseHeaders := by
  refine ⟨rfl, rfl, fun t p => ⟨?_, rfl⟩, fun c => ?_, fun c => ?_, fun bs => ⟨?_, rfl⟩, rfl,
    fun v => ⟨?_, rfl⟩, rfl⟩
  · exact Response.header_toNat (.message t p)
  · exact Response.header_toNat (.discarded c)
  · exact Response.header_toNat (.timedOut c)
  · exact BitVec.eq_of_toNat_eq (Response.header_toNat (.frame bs))
  · exact BitVec.eq_of_toNat_eq (Response.header_toNat (.regValue v))

/-! ### Assembler lines (rules R54, R55) -/

/-- Settles O7. -/
theorem sampleLinesAssemble : Obligations.SampleLinesAssemble := by
  unfold Obligations.SampleLinesAssemble
  decide

end Sys2Proof.Machine
end

section
/-!
PROOFS of the statements on the checksums (spec/40_checksum.md). Both checksums are bitwise complements of 8-bit sums:
`lck L` of the low length byte (`lck_eq_not`), `mck t p` of the sum of the covered bytes `lo t :: hi t :: p`
(`mck_eq_not`). Complement is injective, so what a checksum detects and what it misses are what the 8-bit sum keeps
apart and what it does not.
-/
namespace Sys2Proof.Machine

/-! ### The 8-bit sum (rule R56) -/

theorem sum8_eq_ofNat (s : List Byte) : sum8 s = BitVec.ofNat 8 (byteSum s) :=
  BitVec.eq_of_toNat_eq (by simp [sum8])

@[simp] theorem sum8_nil : sum8 [] = 0 := rfl

@[simp] theorem sum8_cons (b : Byte) (s : List Byte) : sum8 (b :: s) = b + sum8 s := by
  simp [sum8_eq_ofNat, BitVec.ofNat_add]

@[simp] theorem sum8_append (s r : List Byte) : sum8 (s ++ r) = sum8 s + sum8 r := by
  simp [sum8_eq_ofNat, BitVec.ofNat_add]

theorem sum8_toNat (s : List Byte) : (sum8 s).toNat = byteSum s % 256 := by
  rw [sum8_eq_ofNat, BitVec.toNat_ofNat]

/-- An 8-bit running sum from any start: reducing after each addition is reducing once. -/
theorem foldl_add_eq_add_sum8 (s : List Byte) (start : Byte) : s.foldl (· + ·) start = start + sum8 s := by
  induction s generalizing start with
  | nil => simp
  | cons b s ih => rw [List.foldl_cons, ih, sum8_cons, BitVec.add_assoc]

theorem sum8_perm {s r : List Byte} (h : s.Perm r) : sum8 s = sum8 r := by
  have hsum : byteSum s = byteSum r := (h.map BitVec.toNat).sum_eq
  rw [sum8, sum8, hsum]

/-- The sum tells two bytes in one place apart, whatever stands around them. -/
theorem sum8_replace_iff (s r : List Byte) (b b' : Byte) : sum8 (s ++ b :: r) = sum8 (s ++ b' :: r) ↔ b = b' := by
  rw [sum8_append, sum8_append, sum8_cons, sum8_cons, BitVec.add_right_inj, BitVec.add_left_inj]

/-! ### The checksums as complements (rules R57-R59) -/

theorem cpl_eq_not (x : Nat) : cpl x = ~~~BitVec.ofNat 8 x := by
  apply BitVec.eq_of_toNat_eq
  rw [cpl_toNat, BitVec.toNat_not, BitVec.toNat_ofNat]

theorem lck_eq_not (L : Half) : lck L = ~~~lo L := by
  apply BitVec.eq_of_toNat_eq
  rw [lck_toNat, BitVec.toNat_not, lo_toNat]

theorem mck_eq_not (t : Half) (p : List Byte) : mck t p = ~~~sum8 (lo t :: hi t :: p) := by
  rw [mck, cpl_eq_not, sum8_eq_ofNat, byteSum_cons, byteSum_cons, Nat.add_assoc]

theorem lck_eq_iff (L L' : Half) : lck L = lck L' ↔ lo L = lo L' := by
  rw [lck_eq_not, lck_eq_not, BitVec.not_inj]

theorem mck_eq_iff (t t' : Half) (p p' : List Byte) :
    mck t p = mck t' p' ↔ sum8 (lo t :: hi t :: p) = sum8 (lo t' :: hi t' :: p') := by
  rw [mck_eq_not, mck_eq_not, BitVec.not_inj]

/-! ### The validators (rules R60, R61) -/

theorem eq_lck_iff (L : Half) (c : Byte) : c = lck L ↔ c.toNat = 255 - L.toNat % 256 := by
  rw [← BitVec.toNat_inj, lck_toNat]

/-- The sum form of MSG_VALID: the covered bytes and the checksum sum to 255 mod 256. -/
theorem eq_mck_iff_sum (t : Half) (p : List Byte) (c : Byte) :
    c = mck t p ↔ (t.toNat % 256 + t.toNat / 256 + byteSum p + c.toNat) % 256 = 255 := by
  have := c.isLt
  rw [← BitVec.toNat_inj, mck_toNat]
  omega

theorem lenCheck_of_ne {L : Half} {c : Byte} (h : c ≠ lck L) (maxPayload : Half) :
    lenCheck maxPayload L c = .badLengthChecksum := by
  rcases lenCheck_cases maxPayload L c with ⟨-, hverdict⟩ | ⟨heq, -⟩ | ⟨heq, -⟩
  · exact hverdict
  · exact absurd heq h
  · exact absurd heq h

/-- A message whose covered bytes sum differently from a valid one's is invalid under the same checksum. -/
theorem msgValid_eq_false_of_sum8_ne {t t' : Half} {p p' : List Byte} {c : Byte} (hvalid : msgValid t p c = true)
    (hsum : sum8 (lo t' :: hi t' :: p') ≠ sum8 (lo t :: hi t :: p)) : msgValid t' p' c = false := by
  obtain rfl := (msgValid_iff t p c).1 hvalid
  rw [Bool.eq_false_iff, Ne, msgValid_iff, mck_eq_iff]
  exact hsum.symm

/-! ### One flipped bit (rule R63 item 1) -/

theorem getLsbD_flipBit {w k : Nat} (hk : k < w) (v : BitVec w) (i : Nat) :
    (v ^^^ (1#w <<< k)).getLsbD i = (v.getLsbD i ^^ decide (k = i)) := by
  rw [← BitVec.twoPow_eq, BitVec.getLsbD_xor, BitVec.getLsbD_twoPow, decide_eq_true hk, Bool.true_and]

theorem flipBit_ne {w k : Nat} (hk : k < w) (v : BitVec w) : v ^^^ (1#w <<< k) ≠ v := by
  intro h
  have hbit := getLsbD_flipBit hk v k
  rw [h] at hbit
  simp at hbit

/-- A flipped bit inside a field is a flipped bit of the field. -/
theorem extractLsb'_flipBit_inside {w start len k : Nat} (hstart : start ≤ k) (hend : k < start + len) (hk : k < w)
    (v : BitVec w) :
    (v ^^^ (1#w <<< k)).extractLsb' start len = v.extractLsb' start len ^^^ (1#len <<< (k - start)) := by
  apply BitVec.eq_of_getLsbD_eq
  intro i hlt
  have hplace : k = start + i ↔ k - start = i := by omega
  rw [getLsbD_flipBit (by omega), BitVec.getLsbD_extractLsb', BitVec.getLsbD_extractLsb', getLsbD_flipBit hk]
  simp [hlt, hplace]

/-- A flipped bit outside a field leaves the field as it is. -/
theorem extractLsb'_flipBit_outside {w start len k : Nat} (hout : k < start ∨ start + len ≤ k) (hk : k < w)
    (v : BitVec w) : (v ^^^ (1#w <<< k)).extractLsb' start len = v.extractLsb' start len := by
  apply BitVec.eq_of_getLsbD_eq
  intro i _
  have hplace : k ≠ start + i := by omega
  rw [BitVec.getLsbD_extractLsb', BitVec.getLsbD_extractLsb', getLsbD_flipBit hk]
  simp [hplace]

theorem lo_flipBit {k : Nat} (hk : k < 8) (v : Half) : lo (v ^^^ (1#16 <<< k)) = lo v ^^^ (1#8 <<< k) :=
  extractLsb'_flipBit_inside (Nat.zero_le k) (by omega) (by omega) v

/-- A flipped bit of the topic_id lies in one of its two bytes and leaves the other, so it changes the sum. -/
theorem sum8_flip_topic_ne {k : Nat} (hk : k < 16) (t : Half) (p : List Byte) :
    sum8 (lo (t ^^^ (1#16 <<< k)) :: hi (t ^^^ (1#16 <<< k)) :: p) ≠ sum8 (lo t :: hi t :: p) := by
  by_cases hlow : k < 8
  · have hhi : hi (t ^^^ (1#16 <<< k)) = hi t := extractLsb'_flipBit_outside (.inl hlow) hk t
    rw [lo_flipBit hlow, hhi]
    exact fun h => flipBit_ne hlow (lo t) ((sum8_replace_iff [] (hi t :: p) _ _).1 h)
  · have hhigh : 8 ≤ k := Nat.le_of_not_lt hlow
    have hlo : lo (t ^^^ (1#16 <<< k)) = lo t := extractLsb'_flipBit_outside (.inr hhigh) hk t
    have hhi : hi (t ^^^ (1#16 <<< k)) = hi t ^^^ (1#8 <<< (k - 8)) := extractLsb'_flipBit_inside hhigh hk hk t
    rw [hlo, hhi]
    exact fun h => flipBit_ne (by omega) (hi t) ((sum8_replace_iff [lo t] p _ _).1 h)

theorem sum8_flip_payload_ne {k : Nat} (hk : k < 8) (t : Half) (p₁ p₂ : List Byte) (b : Byte) :
    sum8 (lo t :: hi t :: (p₁ ++ (b ^^^ (1#8 <<< k)) :: p₂)) ≠ sum8 (lo t :: hi t :: (p₁ ++ b :: p₂)) :=
  fun h => flipBit_ne hk b ((sum8_replace_iff (lo t :: hi t :: p₁) p₂ _ _).1 h)

/-! ### The statements -/

/-- Settles O20: the running sum is `foldl_add_eq_add_sum8`, by induction on the bytes summed. -/
theorem runningSumGivesTheSameChecksum : Obligations.RunningSumGivesTheSameChecksum := by
  refine ⟨fun x => ⟨cpl_toNat x, ?_⟩, fun s => ⟨sum8_toNat s, ?_⟩, fun t p => ?_⟩
  · rw [cpl_eq_not, ← BitVec.xor_allOnes]
    rfl
  · rw [foldl_add_eq_add_sum8]
    exact (BitVec.zero_add _).symm
  · rw [foldl_add_eq_add_sum8, mck_eq_not, sum8_cons, sum8_cons, BitVec.add_assoc, ← BitVec.xor_allOnes]
    rfl

/-- Settles O21. -/
theorem exactlyOneValidMessageChecksum : Obligations.ExactlyOneValidMessageChecksum :=
  fun t p => ⟨⟨mck t p, (msgValid_iff t p _).2 rfl, fun c => (msgValid_iff t p c).1⟩, msgValid_iff t p,
    fun c => (msgValid_iff t p c).trans (eq_mck_iff_sum t p c)⟩

/-- Settles O22: in each case of `lenCheck_cases` one clause gives the verdict and the other two do not arise. -/
theorem lengthValidatorVerdicts : Obligations.LengthValidatorVerdicts := by
  intro maxPayload L c
  rw [Ne, ← eq_lck_iff]
  rcases lenCheck_cases maxPayload L c with ⟨hne, hverdict⟩ | ⟨heq, hlt, hverdict⟩ | ⟨heq, hle, hverdict⟩
  · exact ⟨fun _ => hverdict, fun heq => absurd heq hne, fun heq => absurd heq hne⟩
  · exact ⟨absurd heq, fun _ _ => hverdict, fun _ hle => absurd hlt (Nat.not_lt.2 hle)⟩
  · exact ⟨absurd heq, fun _ hlt => absurd hlt (Nat.not_lt.2 hle), fun _ _ => hverdict⟩

/-- Settles O23: a flipped bit changes the received checksum or the sum it is compared with, and never both. -/
theorem singleBitErrorsAreDetected : Obligations.SingleBitErrorsAreDetected := by
  refine ⟨fun t p c hvalid => ⟨fun k hk => ?_, fun k hk => ?_, ?_⟩, fun maxPayload L k hk => ⟨?_, ?_⟩⟩
  · obtain rfl := (msgValid_iff t p c).1 hvalid
    rw [Bool.eq_false_iff, Ne, msgValid_iff]
    exact flipBit_ne hk _
  · exact msgValid_eq_false_of_sum8_ne hvalid (sum8_flip_topic_ne hk t p)
  · rintro p₁ p₂ b rfl k hk
    exact msgValid_eq_false_of_sum8_ne hvalid (sum8_flip_payload_ne hk t p₁ p₂ b)
  · exact lenCheck_of_ne (flipBit_ne hk _) maxPayload
  · refine lenCheck_of_ne (fun h => ?_) maxPayload
    rw [lck_eq_iff, lo_flipBit hk] at h
    exact flipBit_ne hk _ h.symm

/-- Settles O24: MCK knows of the covered bytes their sum alone, and LCK of the length its low byte alone. -/
theorem checksumBlindSpots : Obligations.ChecksumBlindSpots :=
  ⟨fun t t' p p' h => (mck_eq_iff t t' p p').2 (sum8_perm h), mck_eq_iff, fun L L' => (lck_eq_iff L L').2⟩

/-- Settles O18. -/
theorem lengthChecksumIsComplement : Obligations.LengthChecksumIsComplement := by
  refine fun L => ⟨lck_toNat L, ?_⟩
  apply BitVec.eq_of_toNat_eq
  rw [lck_toNat, cpl_toNat, lo_toNat, Nat.mod_mod]

/-- Settles O19. -/
theorem messageChecksumIsComplementOfTheSum : Obligations.MessageChecksumIsComplementOfTheSum :=
  fun t p => ⟨mck_toNat t p, rfl⟩

end Sys2Proof.Machine
end

section
/-!
PROOFS of the statements on the frame decoder (spec/41_decoder.md). FEED has one equation per arm, and one trichotomy
over all arms: the byte goes on the frame in progress, completes it, or with the bytes held begins no frame at all
(`FeedOutcome`). What the decoder answers to a frame, and what a MESSAGE says of the bytes fed, both rest on it. Where
the length is accepted, the number of bytes to the frame's end is known whatever they are (`EndsIn`).
-/
namespace Sys2Proof.Machine

/-! ### FEED runs the arm of the decoder's state (rule R65) -/

theorem feedArm_of_awaitSync0 {s : State} (hst : s.decState = .awaitSync0) (b : Byte) :
    feedArm b s = armSync0 b s := by
  simp only [feedArm, hst]

theorem feedArm_of_awaitSync1 {s : State} (hst : s.decState = .awaitSync1) (b : Byte) :
    feedArm b s = armSync1 b s := by
  simp only [feedArm, hst]

theorem feedArm_of_readLength {s : State} (hst : s.decState = .readLength) (b : Byte) : feedArm b s = armLen b s := by
  simp only [feedArm, hst]

theorem feedArm_of_verifyLengthChecksum {s : State} (hst : s.decState = .verifyLengthChecksum) (b : Byte) :
    feedArm b s = armLck b s := by
  simp only [feedArm, hst]

theorem feedArm_of_readTopicId {s : State} (hst : s.decState = .readTopicId) (b : Byte) :
    feedArm b s = armTopic b s := by
  simp only [feedArm, hst]

theorem feedArm_of_readPayload {s : State} (hst : s.decState = .readPayload) (b : Byte) :
    feedArm b s = armPayload b s := by
  simp only [feedArm, hst]

theorem feedArm_of_verifyMessageChecksum {s : State} (hst : s.decState = .verifyMessageChecksum) (b : Byte) :
    feedArm b s = armMck b s := by
  simp only [feedArm, hst]

/-! ### The arms that assemble a field, by the place of the byte (rules R69, R71, R72) -/

theorem armLen_low {s : State} (hindex : s.decIndex = 0) (b : Byte) :
    armLen b s = State.respond .pending { s with decLength := withLo s.decLength b, decIndex := 1 } := by
  rw [armLen, if_pos hindex]

theorem armLen_high {s : State} (hindex : s.decIndex ≠ 0) (b : Byte) :
    armLen b s = State.respond .pending { s with
      decLength := withHi s.decLength b
      decIndex  := 0
      decState  := .verifyLengthChecksum } := by
  rw [armLen, if_neg hindex]

theorem armTopic_low {s : State} (hindex : s.decIndex = 0) (b : Byte) :
    armTopic b s = State.respond .pending { s with decTopic := withLo s.decTopic b, decIndex := 1 } := by
  rw [armTopic, if_pos hindex]

theorem armTopic_high {s : State} (hindex : s.decIndex ≠ 0) (b : Byte) :
    armTopic b s = State.respond .pending { s with
      decTopic := withHi s.decTopic b
      decIndex := 0
      decState := if s.decLength = 0 then .verifyMessageChecksum else .readPayload } := by
  rw [armTopic, if_neg hindex]

theorem armPayload_last {s : State} (hlast : s.decIndex + 1 = s.decLength) (b : Byte) :
    armPayload b s =
      State.respond .pending { storePayload b s with decState := .verifyMessageChecksum, decIndex := 0 } :=
  congrArg _ (if_pos hlast)

theorem armPayload_more {s : State} (hmore : s.decIndex + 1 ≠ s.decLength) (b : Byte) :
    armPayload b s = (storePayload b s).respond .pending :=
  congrArg _ (if_neg hmore)

/-! ### The arms, each the whole next state (rules R66-R73) -/

/-- The machine's resynchronisation, after the timer's restart, is the one the statements write out field by field. -/
theorem discard_restartTimer (cause : Cause) (b : Byte) (s : State) :
    (restartTimer s).discard cause b = afterDiscard cause b s := by
  by_cases hb : b = 0xFF
  · subst hb
    rfl
  · simp only [State.discard, State.rescan, afterDiscard, if_neg hb]
    rfl

/-- Settles O25. -/
theorem feedInAwaitSync0 : Obligations.FeedInAwaitSync0 := by
  intro b s hst
  rw [execFeed_eq, feedArm_of_awaitSync0 (s := restartTimer s) hst, armSync0]
  split
  · rfl
  · rw [← hst]
    rfl

/-- Settles O26. -/
theorem feedInAwaitSync1 : Obligations.FeedInAwaitSync1 := by
  intro b s hst
  rw [execFeed_eq, feedArm_of_awaitSync1 (s := restartTimer s) hst, armSync1]
  refine ⟨fun hb => ?_, fun hb => ?_⟩
  · rw [if_pos hb]
    rfl
  · rw [if_neg hb, discard_restartTimer]

theorem withLo_eq_ofNat (v : Half) (b : Byte) : withLo v b = BitVec.ofNat 16 (v.toNat / 256 * 256 + b.toNat) := by
  rw [← withLo_toNat, BitVec.ofNat_toNat, BitVec.setWidth_eq]

theorem withHi_eq_ofNat (v : Half) (b : Byte) : withHi v b = BitVec.ofNat 16 (b.toNat * 256 + v.toNat % 256) := by
  rw [← withHi_toNat, BitVec.ofNat_toNat, BitVec.setWidth_eq]

/-- Settles O27. -/
theorem feedInReadLength : Obligations.FeedInReadLength := by
  intro b s hst
  rw [execFeed_eq, feedArm_of_readLength (s := restartTimer s) hst, ← withLo_eq_ofNat, ← withHi_eq_ofNat]
  exact ⟨fun hindex => congrArg Host.Outcome.next (armLen_low (s := restartTimer s) hindex b),
    fun hindex => congrArg Host.Outcome.next (armLen_high (s := restartTimer s) hindex b)⟩

/-- Settles O28: the three verdicts of the length validator are the three clauses. -/
theorem feedInVerifyLengthChecksum : Obligations.FeedInVerifyLengthChecksum := by
  intro b s hst
  rw [execFeed_eq, feedArm_of_verifyLengthChecksum (s := restartTimer s) hst, Ne, ← eq_lck_iff]
  rcases armLck_cases b (restartTimer s) with ⟨hne, harm⟩ | ⟨heq, hlt, harm⟩ | ⟨heq, hle, harm⟩ <;> rw [harm]
  · rw [discard_restartTimer]
    exact ⟨fun _ => rfl, fun heq => absurd heq hne, fun heq => absurd heq hne⟩
  · rw [discard_restartTimer]
    exact ⟨absurd heq, fun _ _ => rfl, fun _ hle => absurd hlt (Nat.not_lt.2 hle)⟩
  · exact ⟨absurd heq, fun _ hlt => absurd hlt (Nat.not_lt.2 hle), fun _ _ => rfl⟩

/-- Settles O29. -/
theorem feedInReadTopicId : Obligations.FeedInReadTopicId := by
  intro b s hst
  rw [execFeed_eq, feedArm_of_readTopicId (s := restartTimer s) hst, ← withLo_eq_ofNat, ← withHi_eq_ofNat]
  exact ⟨fun hindex => congrArg Host.Outcome.next (armTopic_low (s := restartTimer s) hindex b),
    fun hindex => congrArg Host.Outcome.next (armTopic_high (s := restartTimer s) hindex b)⟩

/-- In the states of rule R23 the index does not wrap, so it reaches the length as a number where it does as a u16. -/
theorem decIndex_succ_eq_decLength_iff {s : State} (h : Inv s) (hst : s.decState = .readPayload) :
    s.decIndex + 1 = s.decLength ↔ s.decIndex.toNat + 1 = s.decLength.toNat := by
  obtain ⟨-, hindex, hlt⟩ := h.readPayload hst
  bv_omega

/-- Settles O30: the buffer after the byte is the buffer with the byte written at `dec_index`. -/
theorem feedInReadPayload : Obligations.FeedInReadPayload := by
  intro b s hst h
  refine ⟨Memory.write s.pb s.decIndex.toNat b, Memory.read_write_same _ _ _,
    fun a ha => Memory.read_write_other _ _ ha, ?_⟩
  rw [execFeed_eq, feedArm_of_readPayload (s := restartTimer s) hst]
  by_cases hlast : s.decIndex.toNat + 1 = s.decLength.toNat
  · rw [armPayload_last (s := restartTimer s) ((decIndex_succ_eq_decLength_iff h hst).2 hlast), if_pos hlast,
      if_pos hlast]
    rfl
  · rw [armPayload_more (s := restartTimer s) (mt (decIndex_succ_eq_decLength_iff h hst).1 hlast), if_neg hlast,
      if_neg hlast, ← hst]
    rfl

/-- Settles O31: a MESSAGE is answered by the one byte that is the message checksum. -/
theorem feedInVerifyMessageChecksum : Obligations.FeedInVerifyMessageChecksum := by
  intro b s hst expected
  have hexpected : b = mck s.decTopic s.decPayload ↔ b.toNat = expected := by
    rw [← BitVec.toNat_inj, mck_toNat, byteSum]
  rw [execFeed_eq, feedArm_of_verifyMessageChecksum (s := restartTimer s) hst, Ne, ← hexpected]
  rcases armMck_cases b (restartTimer s) with ⟨heq, harm⟩ | ⟨hne, harm⟩ <;> rw [harm]
  · exact ⟨fun _ => rfl, absurd heq⟩
  · rw [discard_restartTimer]
    exact ⟨fun heq => absurd heq hne, fun _ => rfl⟩

/-- In the three data states a FEED is PENDING, keeps the decoder inside the frame, and moves it on by its state, index
and length alone, whatever the byte (rules R69, R71, R72). -/
theorem feedArm_data {s : State}
    (hst : s.decState = .readLength ∨ s.decState = .readTopicId ∨ s.decState = .readPayload) :
    ∃ (next : ParserState) (index : Half), next ≠ .awaitSync0 ∧ next ≠ .awaitSync1 ∧
      ∀ b, (feedArm b s).responses = s.responses ++ [.pending] ∧ (feedArm b s).decState = next ∧
        (feedArm b s).decIndex = index := by
  rcases hst with hst | hst | hst
  · simp only [feedArm_of_readLength hst]
    by_cases hindex : s.decIndex = 0
    · simp only [armLen_low hindex]
      exact ⟨.readLength, 1, nofun, nofun, fun _ => ⟨rfl, hst, rfl⟩⟩
    · simp only [armLen_high hindex]
      exact ⟨.verifyLengthChecksum, 0, nofun, nofun, fun _ => ⟨rfl, rfl, rfl⟩⟩
  · simp only [feedArm_of_readTopicId hst]
    by_cases hindex : s.decIndex = 0
    · simp only [armTopic_low hindex]
      exact ⟨.readTopicId, 1, nofun, nofun, fun _ => ⟨rfl, hst, rfl⟩⟩
    · simp only [armTopic_high hindex]
      refine ⟨if s.decLength = 0 then .verifyMessageChecksum else .readPayload, 0, ?_, ?_, fun _ => ⟨rfl, rfl, rfl⟩⟩ <;>
        split <;> nofun
  · simp only [feedArm_of_readPayload hst]
    by_cases hlast : s.decIndex + 1 = s.decLength
    · simp only [armPayload_last hlast]
      exact ⟨.verifyMessageChecksum, 0, nofun, nofun, fun _ => ⟨rfl, rfl, rfl⟩⟩
    · simp only [armPayload_more hlast]
      exact ⟨.readPayload, s.decIndex + 1, nofun, nofun, fun _ => ⟨rfl, hst, rfl⟩⟩

/-- Settles O33. -/
theorem noSyncSearchInsideAFrame : Obligations.NoSyncSearchInsideAFrame := by
  intro b s hst
  obtain ⟨next, index, hsync0, hsync1, hfeed⟩ := feedArm_data (s := restartTimer s) hst
  obtain ⟨hresponses, hnext, hindex⟩ := hfeed b
  refine ⟨_, execFeed_eq b s, hresponses, hnext ▸ hsync0, hnext ▸ hsync1, fun b' => ?_⟩
  obtain ⟨-, hnext', hindex'⟩ := hfeed b'
  exact ⟨_, execFeed_eq b' s, hnext'.trans hnext.symm, hindex'.trans hindex.symm⟩

/-! ### The bytes of a frame and of its beginnings (rules R27, R40) -/

@[simp] theorem lo_withLo (v : Half) (b : Byte) : lo (withLo v b) = b := by
  apply BitVec.eq_of_toNat_eq
  rw [lo_toNat, withLo_toNat]
  omega

@[simp] theorem lo_withHi (v : Half) (b : Byte) : lo (withHi v b) = lo v := by
  apply BitVec.eq_of_toNat_eq
  rw [lo_toNat, withHi_toNat, lo_toNat]
  omega

@[simp] theorem hi_withHi (v : Half) (b : Byte) : hi (withHi v b) = b := by
  apply BitVec.eq_of_toNat_eq
  rw [hi_toNat, withHi_toNat]
  omega

/-- The two bytes of a u16 determine it. -/
theorem eq_of_lo_hi {v w : Half} (hlo : lo v = lo w) (hhi : hi v = hi w) : v = w := by
  rw [← withHi_withLo v v, ← withHi_withLo v w, hlo, hhi]

/-- The first seven bytes of a frame of length `L` and topic_id `t` (rule R40). -/
def frameHeader (L t : Half) : List Byte := [sync0, sync1, lo L, hi L, lck L, lo t, hi t]

theorem frameBytes_eq_header (t : Half) (p : List Byte) :
    frameBytes t p = frameHeader (BitVec.ofNat 16 p.length) t ++ (p ++ [mck t p]) := by
  rw [← List.append_assoc]
  rfl

/-- MAX_PAYLOAD is a u16, so a legal payload's length is too. -/
theorem ofNat_length_toNat {p : List Byte} {maxPayload : Half} (hbound : p.length ≤ maxPayload.toNat) :
    (BitVec.ofNat 16 p.length).toNat = p.length := by
  rw [BitVec.toNat_ofNat, Nat.mod_eq_of_lt (hbound.trans_lt maxPayload.isLt)]

/-- The sync pair and two length bytes begin a frame only if they are its payload's length. -/
theorem length_eq_of_frame_prefix {L t maxPayload : Half} {p rest : List Byte} (hbound : p.length ≤ maxPayload.toNat)
    (hprefix : [sync0, sync1, lo L, hi L] ++ rest <+: frameBytes t p) :
    L.toNat = p.length ∧ rest <+: [lck L, lo t, hi t] ++ (p ++ [mck t p]) := by
  simp only [frameBytes_eq_header, frameHeader, List.cons_append, List.nil_append, List.cons_prefix_cons,
    true_and] at hprefix
  obtain ⟨hlo, hhi, hrest⟩ := hprefix
  obtain rfl := eq_of_lo_hi hlo hhi
  exact ⟨ofNat_length_toNat hbound, hrest⟩

/-- Seven header bytes begin a frame only if they are its own. -/
theorem header_eq_of_frame_prefix {L m t maxPayload : Half} {p rest : List Byte} (hbound : p.length ≤ maxPayload.toNat)
    (hprefix : frameHeader L m ++ rest <+: frameBytes t p) :
    L.toNat = p.length ∧ m = t ∧ rest <+: p ++ [mck t p] := by
  obtain ⟨hlength, hprefix⟩ := length_eq_of_frame_prefix (rest := [lck L, lo m, hi m] ++ rest) hbound hprefix
  simp only [List.cons_append, List.nil_append, List.cons_prefix_cons, true_and] at hprefix
  obtain ⟨hlo, hhi, hrest⟩ := hprefix
  exact ⟨hlength, eq_of_lo_hi hlo hhi, hrest⟩

/-- Frames delimit themselves: none begins another. -/
theorem eq_of_frameBytes_prefix {t t' maxPayload : Half} {p p' : List Byte} (hbound : p.length ≤ maxPayload.toNat)
    (hbound' : p'.length ≤ maxPayload.toNat) (hprefix : frameBytes t' p' <+: frameBytes t p) : t' = t ∧ p' = p := by
  rw [frameBytes_eq_header t' p'] at hprefix
  obtain ⟨hlength, htopic, hrest⟩ := header_eq_of_frame_prefix hbound hprefix
  rw [ofNat_length_toNat hbound'] at hlength
  exact ⟨htopic, (List.append_inj (hrest.eq_of_length (by simp [hlength])) hlength).1⟩

/-! ### The bytes held, by decoder state (rules R67-R72) -/

theorem heldBytes_of_awaitSync0 {s : State} (hst : s.decState = .awaitSync0) : heldBytes s = [] := by
  simp only [heldBytes, hst]

theorem heldBytes_of_awaitSync1 {s : State} (hst : s.decState = .awaitSync1) : heldBytes s = [sync0] := by
  simp only [heldBytes, hst]

theorem heldBytes_of_readLength {s : State} (hst : s.decState = .readLength) :
    heldBytes s = [sync0, sync1] ++ if s.decIndex = 0 then [] else [lo s.decLength] := by
  simp only [heldBytes, hst]

theorem heldBytes_of_verifyLengthChecksum {s : State} (hst : s.decState = .verifyLengthChecksum) :
    heldBytes s = [sync0, sync1, lo s.decLength, hi s.decLength] := by
  simp only [heldBytes, hst]

theorem heldBytes_of_readTopicId {s : State} (hst : s.decState = .readTopicId) :
    heldBytes s = [sync0, sync1, lo s.decLength, hi s.decLength, lck s.decLength] ++
      if s.decIndex = 0 then [] else [lo s.decTopic] := by
  simp only [heldBytes, hst]

theorem heldBytes_of_payload {s : State} (hst : s.decState = .readPayload ∨ s.decState = .verifyMessageChecksum) :
    heldBytes s = frameHeader s.decLength s.decTopic ++ s.decPayload := by
  rcases hst with hst | hst <;> simp only [heldBytes, hst, frameHeader]

@[simp] theorem heldBytes_restartTimer (s : State) : heldBytes (restartTimer s) = heldBytes s := rfl

@[simp] theorem heldBytes_respond (r : Response) (s : State) : heldBytes (s.respond r) = heldBytes s := rfl

/-- A discard holds at most the failing byte, taken as a new sync0 (rule R66). -/
theorem heldBytes_discard_suffix (cause : Cause) (b : Byte) (s : State) : heldBytes (s.discard cause b) <:+ [b] := by
  by_cases hb : b = sync0
  · rw [heldBytes_of_awaitSync1 (by rw [State.discard_decState, if_pos hb]), hb]
  · rw [heldBytes_of_awaitSync0 (by rw [State.discard_decState, if_neg hb])]
    exact List.nil_suffix

/-- The decoder never holds a whole legal frame: it lacks the message checksum at least. -/
theorem heldBytes_ne_frameBytes {s : State} (h : Inv s) {t : Half} {p : List Byte}
    (hbound : p.length ≤ s.cfg.maxPayload.toNat) : heldBytes s ≠ frameBytes t p := by
  intro heq
  have hlen := congrArg List.length heq
  rw [frameBytes_length] at hlen
  have hpayload (hst : s.decState = .readPayload ∨ s.decState = .verifyMessageChecksum)
      (hcollected : s.decPayload.length ≤ s.decLength.toNat) : False := by
    rw [heldBytes_of_payload hst] at heq hlen
    obtain ⟨hlength, -⟩ := header_eq_of_frame_prefix hbound ⟨[], (List.append_nil _).trans heq⟩
    simp only [List.length_append, frameHeader, List.length_cons, List.length_nil] at hlen
    omega
  cases hst : s.decState with
  | awaitSync0 => simp [heldBytes_of_awaitSync0 hst] at hlen
  | awaitSync1 => simp [heldBytes_of_awaitSync1 hst] at hlen
  | readLength =>
    rw [heldBytes_of_readLength hst] at hlen
    split at hlen <;> simp at hlen
  | verifyLengthChecksum => simp [heldBytes_of_verifyLengthChecksum hst] at hlen
  | readTopicId =>
    rw [heldBytes_of_readTopicId hst] at hlen
    split at hlen <;> simp at hlen
  | readPayload =>
    obtain ⟨-, -, hlt⟩ := h.readPayload hst
    exact hpayload (.inl hst) hlt.le
  | verifyMessageChecksum =>
    obtain ⟨hcollected, -⟩ := h.verifyMessage hst
    exact hpayload (.inr hst) hcollected.le

/-! ### What a byte does to the bytes held (rules R67-R73) -/

/-- No legal frame begins with these bytes. -/
def BeginsNoFrame (maxPayload : Half) (bs : List Byte) : Prop :=
  ∀ (t : Half) (p : List Byte), p.length ≤ maxPayload.toNat → ¬bs <+: frameBytes t p

/-- The three things a byte `b` fed in state `s` can do. -/
inductive FeedOutcome (b : Byte) (s t : State) : Prop where
  /-- It goes on the frame in progress. -/
  | goesOn (hresponses : t.responses = s.responses ++ [.pending]) (hheld : heldBytes t = heldBytes s ++ [b])
  /-- It completes a whole legal frame. -/
  | completes (m : Half) (p : List Byte) (hbound : p.length ≤ s.cfg.maxPayload.toNat)
      (hframe : heldBytes s ++ [b] = frameBytes m p) (hnext : t = s.enterIdle.respond (.message m p))
  /-- With the bytes held it begins no legal frame, and at most it is itself a new beginning. -/
  | startsOver (r : Response) (hresponses : t.responses = s.responses ++ [r]) (hmessage : ∀ m p, r ≠ .message m p)
      (hheld : heldBytes t <:+ [b]) (hnone : BeginsNoFrame s.cfg.maxPayload (heldBytes s ++ [b]))

theorem FeedOutcome.of_discard {b : Byte} {s t : State} {cause : Cause} (ht : t = s.discard cause b)
    (hnone : BeginsNoFrame s.cfg.maxPayload (heldBytes s ++ [b])) : FeedOutcome b s t := by
  subst ht
  exact .startsOver (.discarded cause) (State.discard_responses _ _ _) nofun (heldBytes_discard_suffix _ _ _) hnone

theorem feedOutcome_awaitSync0 {s : State} (hst : s.decState = .awaitSync0) (b : Byte) :
    FeedOutcome b s (armSync0 b s) := by
  unfold armSync0
  split
  · next hb =>
    refine .goesOn rfl ?_
    rw [heldBytes_of_awaitSync0 hst, heldBytes_of_awaitSync1 rfl, hb]
    rfl
  · next hb =>
    refine .startsOver .pending rfl nofun ?_ fun t p _ hprefix => hb ?_
    · rw [heldBytes_respond, heldBytes_of_awaitSync0 hst]
      exact List.nil_suffix
    · rw [heldBytes_of_awaitSync0 hst, frameBytes_eq_header] at hprefix
      exact (List.cons_prefix_cons.1 hprefix).1

theorem feedOutcome_awaitSync1 {s : State} (hst : s.decState = .awaitSync1) (b : Byte) :
    FeedOutcome b s (armSync1 b s) := by
  unfold armSync1
  split
  · next hb =>
    refine .goesOn rfl ?_
    rw [heldBytes_of_awaitSync1 hst, heldBytes_of_readLength rfl, hb]
    rfl
  · next hb =>
    refine .of_discard rfl fun t p _ hprefix => hb ?_
    rw [heldBytes_of_awaitSync1 hst, frameBytes_eq_header] at hprefix
    exact (List.cons_prefix_cons.1 (List.cons_prefix_cons.1 hprefix).2).1

theorem feedOutcome_readLength {s : State} (hst : s.decState = .readLength) (b : Byte) :
    FeedOutcome b s (armLen b s) := by
  by_cases hindex : s.decIndex = 0
  · rw [armLen_low hindex]
    refine .goesOn rfl ?_
    rw [heldBytes_of_readLength (s := s) hst, if_pos hindex, heldBytes_respond, heldBytes_of_readLength]
    · simp
    · exact hst
  · rw [armLen_high hindex]
    refine .goesOn rfl ?_
    rw [heldBytes_of_readLength hst, heldBytes_of_verifyLengthChecksum rfl, if_neg hindex]
    simp

/-- A wrong length checksum, and a length beyond MAX_PAYLOAD, stand in no legal frame. -/
theorem feedOutcome_verifyLengthChecksum {s : State} (hst : s.decState = .verifyLengthChecksum) (b : Byte) :
    FeedOutcome b s (armLck b s) := by
  have hheld := heldBytes_of_verifyLengthChecksum hst
  have hlegal {t : Half} {p : List Byte} (hbound : p.length ≤ s.cfg.maxPayload.toNat)
      (hprefix : heldBytes s ++ [b] <+: frameBytes t p) :
      s.decLength.toNat ≤ s.cfg.maxPayload.toNat ∧ b = lck s.decLength := by
    rw [hheld] at hprefix
    obtain ⟨hlength, hrest⟩ := length_eq_of_frame_prefix hbound hprefix
    exact ⟨hlength ▸ hbound, (List.cons_prefix_cons.1 hrest).1⟩
  rcases armLck_cases b s with ⟨hne, harm⟩ | ⟨-, hlt, harm⟩ | ⟨hb, -, harm⟩
  · exact .of_discard harm fun t p hbound hprefix => hne (hlegal hbound hprefix).2
  · exact .of_discard harm fun t p hbound hprefix => absurd (hlegal hbound hprefix).1 (Nat.not_le.2 hlt)
  · rw [harm]
    refine .goesOn rfl ?_
    rw [hheld, heldBytes_of_readTopicId rfl, hb]
    rfl

theorem feedOutcome_readTopicId {s : State} (h : Inv s) (hst : s.decState = .readTopicId) (b : Byte) :
    FeedOutcome b s (armTopic b s) := by
  obtain ⟨-, -, hpayload⟩ := h.readTopicId hst
  by_cases hindex : s.decIndex = 0
  · rw [armTopic_low hindex]
    refine .goesOn rfl ?_
    rw [heldBytes_of_readTopicId (s := s) hst, if_pos hindex, heldBytes_respond, heldBytes_of_readTopicId]
    · simp
    · exact hst
  · rw [armTopic_high hindex]
    refine .goesOn rfl ?_
    rw [heldBytes_of_readTopicId hst, if_neg hindex, heldBytes_respond, heldBytes_of_payload]
    · simp [frameHeader, hpayload]
    · dsimp only
      split <;> simp

theorem feedOutcome_readPayload {s : State} (hst : s.decState = .readPayload) (b : Byte) :
    FeedOutcome b s (armPayload b s) := by
  refine .goesOn (by simp [armPayload]) ?_
  rw [armPayload, heldBytes_respond, heldBytes_of_payload (.inl hst), heldBytes_of_payload]
  · simp
  · rw [closePayload_decState, storePayload_decState, hst]
    split <;> simp

/-- The byte after a whole payload either is the message checksum, or stands in no legal frame. -/
theorem feedOutcome_verifyMessageChecksum {s : State} (h : Inv s) (hst : s.decState = .verifyMessageChecksum)
    (b : Byte) : FeedOutcome b s (armMck b s) := by
  obtain ⟨hcollected, -⟩ := h.verifyMessage hst
  have hheld := heldBytes_of_payload (.inr hst)
  rcases armMck_cases b s with ⟨hb, harm⟩ | ⟨hne, harm⟩
  · have hlength : BitVec.ofNat 16 s.decPayload.length = s.decLength := by
      rw [hcollected, BitVec.ofNat_toNat, BitVec.setWidth_eq]
    refine .completes s.decTopic s.decPayload (hcollected ▸ h.lengthBound (.inr (.inr hst))) ?_ harm
    rw [hheld, frameBytes_eq_header, hlength, hb, List.append_assoc]
  · refine .of_discard harm fun t p hbound hprefix => hne ?_
    rw [hheld, List.append_assoc] at hprefix
    obtain ⟨hlength, rfl, hrest⟩ := header_eq_of_frame_prefix hbound hprefix
    have hsize : s.decPayload.length = p.length := hcollected.trans hlength
    obtain ⟨rfl, hmck⟩ := List.append_inj (hrest.eq_of_length (by simp [hsize])) hsize
    exact List.singleton_injective hmck

/-- What FEED can do to the bytes held, arm by arm. -/
theorem feedArm_outcome {s : State} (h : Inv s) (b : Byte) : FeedOutcome b s (feedArm b s) := by
  cases hst : s.decState with
  | awaitSync0 => exact feedArm_of_awaitSync0 hst b ▸ feedOutcome_awaitSync0 hst b
  | awaitSync1 => exact feedArm_of_awaitSync1 hst b ▸ feedOutcome_awaitSync1 hst b
  | readLength => exact feedArm_of_readLength hst b ▸ feedOutcome_readLength hst b
  | verifyLengthChecksum => exact feedArm_of_verifyLengthChecksum hst b ▸ feedOutcome_verifyLengthChecksum hst b
  | readTopicId => exact feedArm_of_readTopicId hst b ▸ feedOutcome_readTopicId h hst b
  | readPayload => exact feedArm_of_readPayload hst b ▸ feedOutcome_readPayload hst b
  | verifyMessageChecksum =>
    exact feedArm_of_verifyMessageChecksum hst b ▸ feedOutcome_verifyMessageChecksum h hst b

/-! ### What a command does to the bytes held, and what a MESSAGE says of them (rule R76) -/

/-- A FEED's byte goes on the bytes held, or they are dropped; every other command keeps them or drops them. -/
theorem exec_held_suffix {i : Instr} {s t : State} (h : Inv s) (hexec : exec i s = .next t) :
    heldBytes t <:+ heldBytes s ++ bytesFed [i] := by
  have hkept : heldBytes s <:+ heldBytes s ++ [] := by rw [List.append_nil]
  cases i with
  | feed b =>
    cases hexec
    rcases feedArm_outcome (inv_restartTimer h) b with ⟨-, hheld⟩ | ⟨m, p, -, -, hnext⟩ | ⟨r, -, -, hheld, -⟩
    · rw [hheld]
      exact List.suffix_rfl
    · rw [hnext, heldBytes_of_awaitSync0 rfl]
      exact List.nil_suffix
    · exact hheld.trans (List.suffix_append _ _)
  | tick =>
    rcases execTick_cases s with ⟨-, htick⟩ | ⟨-, -, htick⟩ | ⟨-, -, htick⟩ <;> cases htick.symm.trans hexec
    · exact hkept
    · rw [heldBytes_of_awaitSync0 (State.timeOut_decState s)]
      exact List.nil_suffix
    · exact hkept
  | reset =>
    cases hexec
    exact List.nil_suffix
  | rdreg r =>
    obtain ⟨resp, hread⟩ := execRdreg_eq r s
    cases hread.symm.trans hexec
    exact hkept
  | encode t p =>
    cases hexec
    exact hkept

/-- A MESSAGE answers only the byte that makes the bytes held its whole legal frame. -/
theorem exec_message {i : Instr} {s t : State} {m : Half} {p : List Byte} (h : Inv s) (hexec : exec i s = .next t)
    (hresponses : t.responses = s.responses ++ [.message m p]) :
    p.length ≤ s.cfg.maxPayload.toNat ∧ heldBytes s ++ bytesFed [i] = frameBytes m p := by
  cases i with
  | feed b =>
    cases hexec
    rcases feedArm_outcome (inv_restartTimer h) b with
      ⟨hpending, -⟩ | ⟨m', p', hbound, hframe, hnext⟩ | ⟨r, hother, hmessage, -, -⟩
    · simp [hpending] at hresponses
    · rw [hnext] at hresponses
      obtain ⟨rfl, rfl⟩ : m' = m ∧ p' = p := by simpa using hresponses
      exact ⟨hbound, hframe⟩
    · rw [hother, restartTimer_responses] at hresponses
      exact absurd (by simpa using hresponses) (hmessage m p)
  | tick =>
    rcases execTick_cases s with ⟨-, htick⟩ | ⟨-, -, htick⟩ | ⟨-, -, htick⟩ <;> cases htick.symm.trans hexec <;>
      simp at hresponses
  | reset =>
    cases hexec
    simp at hresponses
  | rdreg r =>
    rw [exec_rdreg_eq] at hexec
    cases hexec
    cases hreg : Reg.ofNumber r <;> simp [hreg] at hresponses
  | encode t' p' =>
    cases hexec
    simp only [State.respond_responses, List.append_cancel_left_eq, List.cons.injEq, and_true] at hresponses
    unfold encodeResponse at hresponses
    split at hresponses <;> cases hresponses

/-- The new responses of a run, from what it added. -/
theorem newResponses_eq {s t : State} {rs : List Response} (h : t.responses = s.responses ++ rs) :
    newResponses s t = rs := by
  rw [newResponses, h, List.drop_left]

/-- Settles O50: a step that performs a command does to the bytes held what the command does; any other feeds no byte
and keeps them. -/
theorem stepKeepsTheHeldBytes : Obligations.StepKeepsTheHeldBytes := by
  intro s t seen h hheld hstep
  rcases step_cases s with ⟨hport, h'⟩ | ⟨c, rest, i, hport, hdecode, h'⟩ | ⟨c, rest, e, hport, hdecode, h'⟩ <;>
    rw [h'] at hstep
  · have hfed : fedByStep s = [] := by simp only [fedByStep, hport]
    cases hstep
    rw [hfed, List.append_nil]
    exact ⟨hheld, fun m p hmessage => by simp [newResponses] at hmessage⟩
  · have hfed : fedByStep s = bytesFed [i] := by simp only [fedByStep, hport, hdecode]
    have hseen : heldBytes s ++ bytesFed [i] <:+ seen ++ bytesFed [i] := List.suffix_append_self_iff.2 hheld
    obtain ⟨u, r, hu, -, -, hresponses⟩ := exec_completes_frame i { s with port := rest }
    cases hu.symm.trans hstep
    rw [hfed]
    refine ⟨(exec_held_suffix (h.withPort rest) hstep).trans hseen, fun m p hmessage => ?_⟩
    have hnew : newResponses s t = [r] := newResponses_eq hresponses
    obtain rfl : r = .message m p := List.singleton_inj.1 (hnew.symm.trans hmessage)
    obtain ⟨hbound, hframe⟩ := exec_message (h.withPort rest) hstep hresponses
    exact ⟨hbound, hframe ▸ hseen⟩
  · have hfed : fedByStep s = [] := by simp only [fedByStep, hport, hdecode]
    rw [illegalCommand_eq] at hstep
    cases hstep
    rw [hfed, List.append_nil]
    exact ⟨hheld, fun m p hmessage => by simp [newResponses] at hmessage⟩

/-! ### Runs of commands, by their last command -/

/-- Every run completes, keeps the configuration, and only adds responses. -/
theorem runInstrs_completes_frame (is : List Instr) (s : State) :
    ∃ (t : State) (rs : List Response),
      runInstrs is s = .next t ∧ t.cfg = s.cfg ∧ t.responses = s.responses ++ rs := by
  induction is generalizing s with
  | nil => exact ⟨s, [], rfl, rfl, (List.append_nil _).symm⟩
  | cons i is ih =>
    obtain ⟨u, r, hexec, hcfg, -, hresponses⟩ := exec_completes_frame i s
    obtain ⟨t, rs, hrun, hcfg', hresponses'⟩ := ih u
    refine ⟨t, r :: rs, (runInstrs_cons hexec is).trans hrun, hcfg'.trans hcfg, ?_⟩
    rw [hresponses', hresponses, List.append_assoc, List.singleton_append]

/-- What every command keeps, every run keeps. -/
theorem runInstrs_keeps {P : State → Prop} (hexec : ∀ i s t, P s → exec i s = .next t → P t) {is : List Instr}
    {s t : State} (hs : P s) (hrun : runInstrs is s = .next t) : P t := by
  induction is generalizing s with
  | nil =>
    cases hrun
    exact hs
  | cons i is ih =>
    obtain ⟨u, -, hu, -⟩ := exec_completes_frame i s
    rw [runInstrs_cons hu] at hrun
    exact ih (hexec i s u hs hu) hrun

theorem runInstrs_keeps_inv {is : List Instr} {s t : State} (h : Inv s) (hrun : runInstrs is s = .next t) : Inv t :=
  runInstrs_keeps exec_keeps_inv h hrun

/-- Along a run the bytes held are the last of the bytes held at its start and those it fed. -/
theorem runInstrs_held_suffix {is : List Instr} {s t : State} (h : Inv s) (hrun : runInstrs is s = .next t) :
    heldBytes t <:+ heldBytes s ++ bytesFed is := by
  induction is generalizing s with
  | nil =>
    cases hrun
    rw [bytesFed, List.append_nil]
  | cons i is ih =>
    obtain ⟨u, -, hexec, -⟩ := exec_completes_frame i s
    have hfed : bytesFed (i :: is) = bytesFed [i] ++ bytesFed is := bytesFed_append [i] is
    rw [runInstrs_cons hexec] at hrun
    rw [hfed, ← List.append_assoc]
    exact (ih (exec_keeps_inv i s u h hexec) hrun).trans
      (List.suffix_append_self_iff.2 (exec_held_suffix h hexec))

/-- Settles O47: before its last command the run held the last of the bytes fed, and the last command's MESSAGE says
that these with its byte are the frame. -/
theorem messageOnlyAfterAWholeValidFrame : Obligations.MessageOnlyAfterAWholeValidFrame := by
  intro s u is t p h hst hrun hlast
  obtain rfl | ⟨js, i, rfl⟩ := List.eq_nil_or_concat' is
  · cases hrun
    simp [newResponses] at hlast
  · obtain ⟨v, rs, hbefore, hcfg, hresponses⟩ := runInstrs_completes_frame js s
    obtain ⟨w, r, hexec, -, -, hadded⟩ := exec_completes_frame i v
    rw [runInstrs_append hbefore, runInstrs_one] at hrun
    cases hexec.symm.trans hrun
    have hnew : newResponses s u = rs ++ [r] := newResponses_eq (by rw [hadded, hresponses, List.append_assoc])
    obtain rfl : r = .message t p := by rwa [hnew, List.getLast?_concat, Option.some_inj] at hlast
    obtain ⟨hbound, hframe⟩ := exec_message (runInstrs_keeps_inv h hbefore) hexec hadded
    have hheld := runInstrs_held_suffix h hbefore
    rw [heldBytes_of_awaitSync0 hst, List.nil_append] at hheld
    obtain ⟨before, hfed⟩ := List.suffix_append_self_iff.2 hheld
    rw [hframe] at hfed
    exact ⟨hcfg ▸ hbound, before, by rw [bytesFed_append, hfed]⟩

/-! ### A frame, byte by byte (rules R77, R82) -/

/-- A byte inside a legal frame of which the earlier bytes are held is answered PENDING and held too. -/
theorem exec_feed_inside_frame {s : State} {t : Half} {p rest : List Byte} {b : Byte} (h : Inv s)
    (hbound : p.length ≤ s.cfg.maxPayload.toNat) (hmore : rest ≠ [])
    (hframe : heldBytes s ++ b :: rest = frameBytes t p) :
    ∃ u : State, exec (.feed b) s = .next u ∧ u.responses = s.responses ++ [.pending] ∧
      heldBytes u = heldBytes s ++ [b] := by
  have hprefix : heldBytes s ++ [b] <+: frameBytes t p := ⟨rest, by rw [← hframe, List.append_assoc]; rfl⟩
  rcases feedArm_outcome (inv_restartTimer h) b with
    ⟨hresponses, hheld⟩ | ⟨m, p', hbound', hwhole, -⟩ | ⟨-, -, -, -, hnone⟩
  · exact ⟨_, execFeed_eq b s, hresponses, hheld⟩
  · rw [heldBytes_restartTimer] at hwhole
    obtain ⟨rfl, rfl⟩ := eq_of_frameBytes_prefix hbound hbound' (hwhole ▸ hprefix)
    rw [← hwhole, List.append_cancel_left_eq, List.cons.injEq] at hframe
    exact absurd hframe.2 hmore
  · exact absurd hprefix (hnone t p hbound)

/-- The last byte of a legal frame of which the others are held is answered MESSAGE. -/
theorem exec_feed_last_of_frame {s : State} {t : Half} {p : List Byte} {b : Byte} (h : Inv s)
    (hbound : p.length ≤ s.cfg.maxPayload.toNat) (hframe : heldBytes s ++ [b] = frameBytes t p) :
    exec (.feed b) s = .next (afterIdle (.message t p) s) := by
  rcases feedArm_outcome (inv_restartTimer h) b with
    ⟨-, hheld⟩ | ⟨m, p', hbound', hwhole, hnext⟩ | ⟨-, -, -, -, hnone⟩
  · have hinv := inv_feedArm (inv_restartTimer h) b
    have hbound' : p.length ≤ (feedArm b (restartTimer s)).cfg.maxPayload.toNat := by
      rw [feedArm_cfg]
      exact hbound
    exact absurd (hheld.trans hframe) (heldBytes_ne_frameBytes hinv hbound')
  · rw [heldBytes_restartTimer, hframe] at hwhole
    obtain ⟨rfl, rfl⟩ := eq_of_frameBytes_prefix hbound hbound' ⟨[], (List.append_nil _).trans hwhole.symm⟩
    rw [execFeed_eq, hnext]
    rfl
  · exact absurd (hframe ▸ List.prefix_rfl) (hnone t p hbound)

/-- The rest of a legal frame of which the earlier bytes are held: PENDING for each byte but the last, then MESSAGE. -/
theorem runInstrs_rest_of_frame {s : State} {t : Half} {p rest : List Byte} {b : Byte} (h : Inv s)
    (hbound : p.length ≤ s.cfg.maxPayload.toNat) (hframe : heldBytes s ++ b :: rest = frameBytes t p) :
    ∃ v : State, runInstrs (feeds (b :: rest)) s = .next v ∧ v.decState = .awaitSync0 ∧
      v.responses = s.responses ++ (List.replicate rest.length .pending ++ [.message t p]) := by
  induction rest generalizing s b with
  | nil => exact ⟨_, (runInstrs_one _ _).trans (exec_feed_last_of_frame h hbound hframe), rfl, rfl⟩
  | cons b' rest ih =>
    obtain ⟨u, hexec, hresponses, hheld⟩ := exec_feed_inside_frame h hbound (List.cons_ne_nil b' rest) hframe
    rw [← exec_keeps_cfg hexec] at hbound
    rw [List.append_cons, ← hheld] at hframe
    obtain ⟨v, hrun, hidle, hresponses'⟩ := ih (exec_keeps_inv _ s u h hexec) hbound hframe
    refine ⟨v, (runInstrs_cons hexec _).trans hrun, hidle, ?_⟩
    rw [hresponses', hresponses, List.append_assoc]
    rfl

/-! ### Scanning for a frame (rules R67, R68, R77) -/

theorem scanning_iff (s : State) : scanning s = true ↔ s.decState = .awaitSync0 ∨ s.decState = .awaitSync1 := by
  simp [scanning]

/-- The answer of a scanning decoder to a byte that completes no sync pair. -/
def scanResponse (s : State) : Response := if s.decState = .awaitSync1 then .discarded .badSync1 else .pending

theorem isGarbageResponse_scanResponse (s : State) : isGarbageResponse (scanResponse s) = true := by
  unfold scanResponse
  split <;> rfl

/-- A byte that completes no sync pair leaves the decoder scanning, in AwaitSync1 just where it is 0xFF. -/
theorem exec_feed_scanning {s : State} {b : Byte} (hscan : scanning s = true)
    (hb : s.decState = .awaitSync1 → b ≠ sync1) :
    ∃ u : State, exec (.feed b) s = .next u ∧ u.responses = s.responses ++ [scanResponse s] ∧
      u.decState = if b = sync0 then .awaitSync1 else .awaitSync0 := by
  unfold scanResponse
  rcases (scanning_iff s).1 hscan with hst | hst <;> rw [hst]
  · exact ⟨_, feedInAwaitSync0 b s hst, rfl, rfl⟩
  · exact ⟨_, (feedInAwaitSync1 b s hst).2 (hb hst), rfl, rfl⟩

theorem syncFree_cons_iff (b : Byte) (bs : List Byte) :
    syncFree (b :: bs) = true ↔ (b = sync0 → bs.head? ≠ some sync1) ∧ syncFree bs = true := by
  cases bs with
  | nil => simp [syncFree]
  | cons b' bs => simp [syncFree, -not_and, imp_iff_not_or]

/-- Garbage that completes no sync pair leaves the decoder scanning. -/
theorem runInstrs_garbage {s : State} {garbage : List Byte} (hscan : scanning s = true)
    (hfree : syncFree garbage = true) (hfirst : s.decState = .awaitSync1 → garbage.head? ≠ some sync1) :
    ∃ (u : State) (rs : List Response), runInstrs (feeds garbage) s = .next u ∧ scanning u = true ∧
      u.responses = s.responses ++ rs ∧ rs.all isGarbageResponse = true := by
  induction garbage generalizing s with
  | nil => exact ⟨s, [], rfl, hscan, (List.append_nil _).symm, rfl⟩
  | cons b bs ih =>
    obtain ⟨hnext, hfree⟩ := (syncFree_cons_iff b bs).1 hfree
    obtain ⟨u, hexec, hresponses, hst⟩ := exec_feed_scanning (b := b) hscan (by simpa using hfirst)
    have hscan' : scanning u = true := by
      rw [scanning_iff, hst]
      split <;> simp
    have hfirst' : u.decState = .awaitSync1 → bs.head? ≠ some sync1 := by
      rw [hst]
      split
      · next hb => exact fun _ => hnext hb
      · nofun
    obtain ⟨v, rs, hrun, hscan'', hresponses', hrs⟩ := ih hscan' hfree hfirst'
    refine ⟨v, scanResponse s :: rs, (runInstrs_cons hexec _).trans hrun, hscan'', ?_, ?_⟩
    · rw [hresponses', hresponses, List.append_assoc, List.singleton_append]
    · rw [List.all_cons, hrs, isGarbageResponse_scanResponse, Bool.and_true]

/-- A whole legal frame fed to a scanning decoder: from AwaitSync1 its first byte fails as sync1 and is taken as
sync0. -/
theorem runInstrs_frame {s : State} {t : Half} {p : List Byte} (h : Inv s) (hscan : scanning s = true)
    (hbound : p.length ≤ s.cfg.maxPayload.toNat) :
    ∃ v : State, runInstrs (feeds (frameBytes t p)) s = .next v ∧ v.decState = .awaitSync0 ∧
      v.responses =
        s.responses ++ (scanResponse s :: List.replicate (p.length + 6) .pending ++ [.message t p]) := by
  obtain ⟨rest, hframe, hrest⟩ : ∃ rest, frameBytes t p = sync0 :: sync1 :: rest ∧ rest.length = p.length + 6 :=
    ⟨_, rfl, by simp⟩
  obtain ⟨u, hexec, hresponses, hst⟩ := exec_feed_scanning (b := sync0) hscan fun _ => by decide
  rw [if_pos rfl] at hst
  have hbound' : p.length ≤ u.cfg.maxPayload.toNat := by rwa [exec_keeps_cfg hexec]
  obtain ⟨v, hrun, hidle, hresponses'⟩ := runInstrs_rest_of_frame (b := sync1) (rest := rest)
    (exec_keeps_inv _ s u h hexec) hbound' (by rw [heldBytes_of_awaitSync1 hst, hframe]; rfl)
  refine ⟨v, ?_, hidle, ?_⟩
  · rw [hframe, feeds_cons, runInstrs_cons hexec, hrun]
  · rw [hresponses', hresponses, hrest, List.append_assoc]
    rfl

/-- Settles O46: the garbage leaves the decoder scanning, in a state of the invariant under the same MAX_PAYLOAD, and
from there the frame is decoded. -/
theorem resynchronisationGuarantee : Obligations.ResynchronisationGuarantee := by
  intro s garbage t p h hscan hfree hfirst hbound
  obtain ⟨u, rs, hrun, hscan', hresponses, hrs⟩ := runInstrs_garbage hscan hfree hfirst
  have hcfg : u.cfg = s.cfg := runInstrs_keeps (P := fun v => v.cfg = s.cfg)
    (fun _ _ _ hv hexec => (exec_keeps_cfg hexec).trans hv) rfl hrun
  obtain ⟨v, hframe, -, hresponses'⟩ := runInstrs_frame (t := t) (runInstrs_keeps_inv h hrun) hscan' (hcfg ▸ hbound)
  exact ⟨u, v, hrun, hscan', newResponses_eq hresponses ▸ hrs, hframe, newResponses_eq hresponses'⟩

/-! ### A false sync (rule R78) -/

/-- The frame in progress ends after exactly `n` more bytes: it has ended, or its length was accepted. -/
def EndsIn (n : Nat) (s : State) : Prop :=
  match s.decState with
  | .awaitSync0 | .awaitSync1 => n = 0
  | .readLength | .verifyLengthChecksum => False
  | .readTopicId => n = (if s.decIndex = 0 then 2 else 1) + s.decLength.toNat + 1
  | .readPayload => n + s.decIndex.toNat = s.decLength.toNat + 1
  | .verifyMessageChecksum => n = 1

theorem endsIn_iff_of_readTopicId {n : Nat} {s : State} (hst : s.decState = .readTopicId) :
    EndsIn n s ↔ n = (if s.decIndex = 0 then 2 else 1) + s.decLength.toNat + 1 := by
  simp only [EndsIn, hst]

theorem endsIn_iff_of_readPayload {n : Nat} {s : State} (hst : s.decState = .readPayload) :
    EndsIn n s ↔ n + s.decIndex.toNat = s.decLength.toNat + 1 := by
  simp only [EndsIn, hst]

theorem endsIn_iff_of_verifyMessageChecksum {n : Nat} {s : State} (hst : s.decState = .verifyMessageChecksum) :
    EndsIn n s ↔ n = 1 := by
  simp only [EndsIn, hst]

theorem endsIn_iff_of_scanning {n : Nat} {s : State} (hscan : scanning s = true) : EndsIn n s ↔ n = 0 := by
  rcases (scanning_iff s).1 hscan with hst | hst <;> simp only [EndsIn, hst]

/-- Where the end of the frame is known, the decoder scans just where it has come. -/
theorem scanning_iff_of_endsIn {n : Nat} {s : State} (h : Inv s) (hends : EndsIn n s) : scanning s = true ↔ n = 0 := by
  refine ⟨fun hscan => (endsIn_iff_of_scanning hscan).1 hends, fun hn => ?_⟩
  cases hst : s.decState with
  | awaitSync0 => exact (scanning_iff s).2 (.inl hst)
  | awaitSync1 => exact (scanning_iff s).2 (.inr hst)
  | readLength => simp only [EndsIn, hst] at hends
  | verifyLengthChecksum => simp only [EndsIn, hst] at hends
  | readTopicId =>
    rw [endsIn_iff_of_readTopicId hst] at hends
    omega
  | readPayload =>
    obtain ⟨-, hindex, hlt⟩ := h.readPayload hst
    rw [endsIn_iff_of_readPayload hst] at hends
    omega
  | verifyMessageChecksum =>
    rw [endsIn_iff_of_verifyMessageChecksum hst] at hends
    omega

theorem scanning_discard (cause : Cause) (b : Byte) (s : State) : scanning (s.discard cause b) = true := by
  rw [scanning_iff, State.discard_decState]
  split <;> simp

theorem endsIn_armTopic {n : Nat} {s : State} (hst : s.decState = .readTopicId) (hends : EndsIn (n + 1) s) (b : Byte) :
    EndsIn n (armTopic b s) := by
  rw [endsIn_iff_of_readTopicId hst] at hends
  by_cases hindex : s.decIndex = 0
  · rw [if_pos hindex] at hends
    rw [armTopic_low hindex]
    refine (endsIn_iff_of_readTopicId (by exact hst)).2 ?_
    show n = 1 + s.decLength.toNat + 1
    omega
  · rw [if_neg hindex] at hends
    rw [armTopic_high hindex]
    by_cases hempty : s.decLength = 0
    · have hzero : s.decLength.toNat = 0 := congrArg BitVec.toNat hempty
      rw [if_pos hempty, endsIn_iff_of_verifyMessageChecksum rfl]
      omega
    · rw [if_neg hempty, endsIn_iff_of_readPayload rfl]
      show n + 0 = s.decLength.toNat + 1
      omega

theorem endsIn_armPayload {n : Nat} {s : State} (h : Inv s) (hst : s.decState = .readPayload)
    (hends : EndsIn (n + 1) s) (b : Byte) : EndsIn n (armPayload b s) := by
  have hlast := decIndex_succ_eq_decLength_iff h hst
  have hindex := storePayload_decIndex_toNat h hst b
  obtain ⟨-, hcollected, -⟩ := h.readPayload hst
  rw [endsIn_iff_of_readPayload hst] at hends
  by_cases hclose : s.decIndex + 1 = s.decLength
  · have hend := hlast.1 hclose
    rw [armPayload_last hclose, endsIn_iff_of_verifyMessageChecksum rfl]
    omega
  · rw [armPayload_more hclose]
    refine (endsIn_iff_of_readPayload (by exact hst)).2 ?_
    rw [State.respond_decIndex, hindex, State.respond_decLength, storePayload_decLength]
    omega

/-- Whatever a byte is, the frame in progress ends one byte sooner after it. -/
theorem endsIn_feedArm {n : Nat} {s : State} (h : Inv s) (hends : EndsIn (n + 1) s) (b : Byte) :
    EndsIn n (feedArm b s) := by
  have hidle : scanning s ≠ true := by simp [scanning_iff_of_endsIn h hends]
  cases hst : s.decState with
  | awaitSync0 => exact absurd ((scanning_iff s).2 (.inl hst)) hidle
  | awaitSync1 => exact absurd ((scanning_iff s).2 (.inr hst)) hidle
  | readLength => simp only [EndsIn, hst] at hends
  | verifyLengthChecksum => simp only [EndsIn, hst] at hends
  | readTopicId => exact feedArm_of_readTopicId hst b ▸ endsIn_armTopic hst hends b
  | readPayload => exact feedArm_of_readPayload hst b ▸ endsIn_armPayload h hst hends b
  | verifyMessageChecksum =>
    rw [endsIn_iff_of_verifyMessageChecksum hst] at hends
    rw [feedArm_of_verifyMessageChecksum hst]
    rcases armMck_cases b s with ⟨-, harm⟩ | ⟨-, harm⟩ <;> rw [harm]
    · exact (endsIn_iff_of_scanning rfl).2 (Nat.succ.inj hends)
    · exact (endsIn_iff_of_scanning (scanning_discard _ _ _)).2 (Nat.succ.inj hends)

theorem runInstrs_endsIn {s : State} {bs : List Byte} {n : Nat} (h : Inv s) (hends : EndsIn (bs.length + n) s) :
    ∃ u : State, runInstrs (feeds bs) s = .next u ∧ EndsIn n u := by
  induction bs generalizing s with
  | nil => exact ⟨s, rfl, by simpa using hends⟩
  | cons b bs ih =>
    have hnext := endsIn_feedArm (n := bs.length + n) (s := restartTimer s) (inv_restartTimer h)
      (by rw [List.length_cons, Nat.add_right_comm] at hends; exact hends) b
    obtain ⟨u, hrun, hends'⟩ := ih (inv_feedArm (inv_restartTimer h) b) hnext
    exact ⟨u, (runInstrs_cons (execFeed_eq b s) _).trans hrun, hends'⟩

/-- Two bytes after the sync pair the decoder holds the length they are, and has not yet looked at it. -/
theorem exec_feed_length {s : State} (hst : s.decState = .readLength) (hindex : s.decIndex = 0) (b0 b1 : Byte) :
    ∃ u v : State, exec (.feed b0) s = .next u ∧ u.decState = .readLength ∧ exec (.feed b1) u = .next v ∧
      v.decState = .verifyLengthChecksum ∧ v.decLength.toNat = b0.toNat + 256 * b1.toNat := by
  refine ⟨_, _, (feedInReadLength b0 s hst).1 hindex, hst,
    (feedInReadLength b1 _ (by exact hst)).2 (by dsimp only; decide), rfl, ?_⟩
  have := b0.isLt
  have := b1.isLt
  simp only [BitVec.toNat_ofNat]
  omega

/-- The length checksum decides when the frame ends: at once, or after the topic_id, the payload and its checksum. -/
theorem exec_feed_lengthChecksum {s : State} (hst : s.decState = .verifyLengthChecksum) (b : Byte) :
    ∃ u : State, exec (.feed b) s = .next u ∧
      EndsIn (if b.toNat = 255 - s.decLength.toNat % 256 ∧ s.decLength.toNat ≤ s.cfg.maxPayload.toNat
        then s.decLength.toNat + 3 else 0) u := by
  obtain ⟨hwrong, hlong, hright⟩ := feedInVerifyLengthChecksum b s hst
  by_cases hb : b.toNat = 255 - s.decLength.toNat % 256
  · by_cases hle : s.decLength.toNat ≤ s.cfg.maxPayload.toNat
    · rw [if_pos ⟨hb, hle⟩]
      refine ⟨_, hright hb hle, (endsIn_iff_of_readTopicId rfl).2 ?_⟩
      show _ = 2 + s.decLength.toNat + 1
      omega
    · rw [if_neg fun hboth => hle hboth.2]
      rw [← discard_restartTimer] at hlong
      exact ⟨_, hlong hb (Nat.not_le.1 hle), (endsIn_iff_of_scanning (scanning_discard _ _ _)).2 rfl⟩
  · rw [if_neg fun hboth => hb hboth.1]
    rw [← discard_restartTimer] at hwrong
    exact ⟨_, hwrong hb, (endsIn_iff_of_scanning (scanning_discard _ _ _)).2 rfl⟩

/-- Settles O49: the third byte decides how many more there are, `n`; before it the decoder reads the length, and after
`i ≤ n` more the frame ends in `n - i`. -/
theorem falseSyncCostsBoundedBytes : Obligations.FalseSyncCostsBoundedBytes := by
  intro s b0 b1 b2 bs h hst hindex hlen L k
  obtain ⟨s1, s2, h0, hst1, h1, hst2, hlength⟩ := exec_feed_length hst hindex b0 b1
  obtain ⟨s3, h2, hends⟩ := exec_feed_lengthChecksum hst2 b2
  have hcfg : s2.cfg = s.cfg := (exec_keeps_cfg h1).trans (exec_keeps_cfg h0)
  have hinv3 : Inv s3 := exec_keeps_inv _ _ _ (exec_keeps_inv _ _ _ (exec_keeps_inv _ _ _ h h0) h1) h2
  obtain ⟨n, hk, hn, hends⟩ : ∃ n, k = 3 + n ∧ n ≤ s.cfg.maxPayload.toNat + 3 ∧ EndsIn n s3 := by
    rw [hlength, hcfg] at hends
    refine ⟨_, ?_, ?_, hends⟩
    · simp only [k, L]
      split <;> omega
    · split <;> omega
  have hafter (i : Nat) (hi : i ≤ n) : ∃ u : State,
      runInstrs (feeds ((b0 :: b1 :: b2 :: bs).take (3 + i))) s = .next u ∧ (scanning u = true ↔ i = n) := by
    have htake : (bs.take i).length = i := List.length_take_of_le (by omega)
    obtain ⟨u, hrun, hu⟩ := runInstrs_endsIn (bs := bs.take i) (n := n - i) hinv3
      (by rwa [htake, Nat.add_sub_cancel' hi])
    refine ⟨u, ?_, ?_⟩
    · rw [Nat.add_comm, List.take_succ_cons, List.take_succ_cons, List.take_succ_cons, feeds_cons, feeds_cons,
        feeds_cons, runInstrs_cons h0, runInstrs_cons h1, runInstrs_cons h2, hrun]
    · rw [scanning_iff_of_endsIn (runInstrs_keeps_inv hinv3 hrun) hu]
      omega
  refine ⟨by omega, fun j hj => ?_, ?_⟩
  · match j with
    | 0 => exact ⟨s, rfl, by simp [scanning, hst]⟩
    | 1 => exact ⟨s1, (runInstrs_one _ _).trans h0, by simp [scanning, hst1]⟩
    | 2 => exact ⟨s2, (runInstrs_cons h0 _).trans ((runInstrs_one _ _).trans h1), by simp [scanning, hst2]⟩
    | i + 3 =>
      obtain ⟨u, hrun, hu⟩ := hafter i (by omega)
      exact ⟨u, by rwa [Nat.add_comm], by rw [Bool.eq_false_iff, Ne, hu]; omega⟩
  · obtain ⟨u, hrun, hu⟩ := hafter n le_rfl
    exact ⟨u, by rwa [hk], hu.2 rfl⟩

end Sys2Proof.Machine
end

section
/-!
PROOFS of the statements on the frame encoder (spec/42_encoder.md). No command reads the responses given before it, so a
command that only answers is invisible to the rest of a run (`runInstrs_withResponses`); and FEED does not read
`idle_ticks` either, so a run without RESET and timeout takes the decoder where its FEEDs alone would
(`runInstrs_feeds_alone`). A frame is therefore decoded under every interleaving just as it is decoded alone.
-/
namespace Sys2Proof.Machine

/-! ### ENCODE's word and its answer (rules R40, R50, R80) -/

theorem encodeResponse_of_le {maxPayload : Half} {p : List Byte} (hbound : p.length ≤ maxPayload.toNat) (t : Half) :
    encodeResponse maxPayload t p = .frame (frameBytes t p) :=
  if_neg (Nat.not_lt.2 hbound)

theorem encodeResponse_of_lt {maxPayload : Half} {p : List Byte} (hlong : maxPayload.toNat < p.length) (t : Half) :
    encodeResponse maxPayload t p = .payloadTooLarge :=
  if_pos hlong

theorem encodeResponse_eq_frame_iff {maxPayload t : Half} {p bytes : List Byte} :
    encodeResponse maxPayload t p = .frame bytes ↔ p.length ≤ maxPayload.toNat ∧ bytes = frameBytes t p := by
  rcases Nat.lt_or_ge maxPayload.toNat p.length with hlong | hbound
  · simp [encodeResponse_of_lt hlong, hlong]
  · simp [encodeResponse_of_le hbound, hbound, eq_comm]

theorem exec_encode_eq (t : Half) (p : List Byte) (s : State) :
    exec (.encode t p) s = .next (s.respond (encodeResponse s.cfg.maxPayload t p)) := rfl

/-- ENCODE's word as a number: the opcode in bits [31:24], bits [23:16] zero, and the topic_id (rule R50). -/
theorem encode_word_eq_ofNat (t : Half) (p : List Byte) :
    (encode (.encode t p)).word = BitVec.ofNat 32 (0x10000000 + t.toNat) := by
  show (0x10#8 ++ (0#8 ++ t) : Word) = _
  apply BitVec.eq_of_toNat_eq
  have hop : (0x10#8 ++ (0#8 ++ t) : Word).toNat = 0x10 * 2 ^ 24 + t.toNat := by
    rw [BitVec.toNat_append, ← Nat.shiftLeft_add_eq_or_of_lt (0#8 ++ t).isLt, Nat.shiftLeft_eq, BitVec.toNat_append]
    simp
  rw [hop, BitVec.toNat_ofNat]
  omega

/-- The bytes of a frame as numbers, as rule R40 lays them out. -/
theorem frameBytes_map_toNat {t maxPayload : Half} {p : List Byte} (hbound : p.length ≤ maxPayload.toNat) :
    (frameBytes t p).map BitVec.toNat =
      [0xFF, 0xFD, p.length % 256, p.length / 256, 255 - p.length % 256, t.toNat % 256, t.toNat / 256] ++
      p.map BitVec.toNat ++
      [255 - (t.toNat % 256 + t.toNat / 256 + (p.map BitVec.toNat).sum) % 256] := by
  simp only [frameBytes, List.map_append, List.map_cons, List.map_nil, lo_toNat, hi_toNat, lck_toNat, mck_toNat,
    ofNat_length_toNat hbound, byteSum]
  rfl

/-- Settles O42. -/
theorem encodeBuildsTheFrame : Obligations.EncodeBuildsTheFrame := by
  intro t p s
  refine ⟨?_, fun hbound => ⟨frameBytes t p, ?_, frameBytes_length t p, frameBytes_map_toNat hbound⟩, fun hlong => ?_⟩
  · rw [← encode_word_eq_ofNat t p]
    exact decode_encode (i := .encode t p) rfl
  · rw [exec_encode_eq, encodeResponse_of_le hbound]
    rfl
  · rw [exec_encode_eq, encodeResponse_of_lt hlong]
    rfl

/-! ### No command reads the responses given before it (rules R33, R106) -/

/-- Applied to `s`, whatever responses were given before, `arm` answers the same and does the same. -/
def IgnoresResponses (arm : State → State) (s : State) : Prop :=
  ∃ r : Response, ∀ rs : List Response,
    arm { s with responses := rs } = { arm s with responses := rs ++ [r] }

theorem ignoresResponses_discard (cause : Cause) (b : Byte) (s : State) :
    IgnoresResponses (State.discard cause b) s := by
  refine ⟨.discarded cause, fun rs => ?_⟩
  unfold State.discard State.rescan
  split <;> rfl

theorem ignoresResponses_armSync0 (b : Byte) (s : State) : IgnoresResponses (armSync0 b) s := by
  refine ⟨.pending, fun rs => ?_⟩
  unfold armSync0
  split <;> rfl

theorem ignoresResponses_armSync1 (b : Byte) (s : State) : IgnoresResponses (armSync1 b) s := by
  by_cases hb : b = sync1
  · exact ⟨.pending, fun rs => by simp only [armSync1, if_pos hb]; rfl⟩
  · simpa only [IgnoresResponses, armSync1, if_neg hb] using ignoresResponses_discard .badSync1 b s

theorem ignoresResponses_armLen (b : Byte) (s : State) : IgnoresResponses (armLen b) s := by
  refine ⟨.pending, fun rs => ?_⟩
  unfold armLen
  split <;> rfl

theorem ignoresResponses_armLck (b : Byte) (s : State) : IgnoresResponses (armLck b) s := by
  cases hverdict : lenCheck s.cfg.maxPayload s.decLength b <;> simp only [IgnoresResponses, armLck, hverdict]
  case badLengthChecksum => exact ignoresResponses_discard _ b s
  case oversizedLength => exact ignoresResponses_discard _ b s
  case ok => exact ⟨.pending, fun rs => rfl⟩

theorem ignoresResponses_armTopic (b : Byte) (s : State) : IgnoresResponses (armTopic b) s := by
  refine ⟨.pending, fun rs => ?_⟩
  unfold armTopic
  split <;> rfl

theorem closePayload_withResponses (s : State) (rs : List Response) :
    closePayload { s with responses := rs } = { closePayload s with responses := rs } := by
  unfold closePayload
  split <;> rfl

theorem ignoresResponses_armPayload (b : Byte) (s : State) : IgnoresResponses (armPayload b) s :=
  ⟨.pending, fun rs => congrArg (State.respond .pending) (closePayload_withResponses (storePayload b s) rs)⟩

theorem ignoresResponses_armMck (b : Byte) (s : State) : IgnoresResponses (armMck b) s := by
  cases hvalid : msgValid s.decTopic s.decPayload b <;> simp only [IgnoresResponses, armMck, hvalid]
  case false => exact ignoresResponses_discard _ b s
  case true => exact ⟨.message s.decTopic s.decPayload, fun rs => rfl⟩

theorem ignoresResponses_feedArm (b : Byte) (s : State) : IgnoresResponses (feedArm b) s := by
  cases hst : s.decState
  case awaitSync0 => simpa only [IgnoresResponses, feedArm, hst] using ignoresResponses_armSync0 b s
  case awaitSync1 => simpa only [IgnoresResponses, feedArm, hst] using ignoresResponses_armSync1 b s
  case readLength => simpa only [IgnoresResponses, feedArm, hst] using ignoresResponses_armLen b s
  case verifyLengthChecksum => simpa only [IgnoresResponses, feedArm, hst] using ignoresResponses_armLck b s
  case readTopicId => simpa only [IgnoresResponses, feedArm, hst] using ignoresResponses_armTopic b s
  case readPayload => simpa only [IgnoresResponses, feedArm, hst] using ignoresResponses_armPayload b s
  case verifyMessageChecksum => simpa only [IgnoresResponses, feedArm, hst] using ignoresResponses_armMck b s

/-- RDREG and ENCODE only answer, and ENCODE's answer is a function of its operands and MAX_PAYLOAD (rules R80, R87). -/
theorem exec_onlyAnswers {i : Instr} (hi : (∃ r, i = .rdreg r) ∨ (∃ t p, i = .encode t p)) (s : State) :
    ∃ r : Response, (∀ rs, exec i { s with responses := rs } = .next { s with responses := rs ++ [r] }) ∧
      ∀ t p, i = .encode t p → r = encodeResponse s.cfg.maxPayload t p := by
  rcases hi with ⟨n, rfl⟩ | ⟨t, p, rfl⟩
  · exact ⟨(Reg.ofNumber n).elim .illegal fun reg => .regValue (readReg reg s),
      fun rs => exec_rdreg_eq n { s with responses := rs }, nofun⟩
  · refine ⟨encodeResponse s.cfg.maxPayload t p, fun rs => rfl, ?_⟩
    rintro t' p' ⟨⟩
    rfl

/-- A command does the same whatever was answered before it. -/
theorem exec_withResponses {i : Instr} {s t : State} (hexec : exec i s = .next t) :
    ∃ r : Response, t.responses = s.responses ++ [r] ∧
      ∀ rs, exec i { s with responses := rs } = .next { t with responses := rs ++ [r] } := by
  suffices hany : ∃ r : Response, ∀ rs, exec i { s with responses := rs } = .next { t with responses := rs ++ [r] } by
    obtain ⟨r, hr⟩ := hany
    have hsame := hexec.symm.trans (hr s.responses)
    exact ⟨r, congrArg State.responses (Host.Outcome.next.inj hsame), hr⟩
  cases i with
  | feed b =>
    cases hexec
    obtain ⟨r, hr⟩ := ignoresResponses_feedArm b (restartTimer s)
    exact ⟨r, fun rs => congrArg Host.Outcome.next (hr rs)⟩
  | tick =>
    rcases execTick_cases s with ⟨hst, htick⟩ | ⟨hst, hle, htick⟩ | ⟨hst, hlt, htick⟩ <;> cases htick.symm.trans hexec
    · exact ⟨.ok, fun rs => if_pos hst⟩
    · exact ⟨.timedOut .timeout, fun rs => exec_tick_timesOut (s := { s with responses := rs }) hst hle⟩
    · exact ⟨.ok, fun rs => exec_tick_counts (s := { s with responses := rs }) hst hlt⟩
  | reset =>
    cases hexec
    exact ⟨.ok, fun rs => rfl⟩
  | rdreg n =>
    obtain ⟨r, hr, -⟩ := exec_onlyAnswers (.inl ⟨n, rfl⟩) s
    cases (hr s.responses).symm.trans hexec
    exact ⟨r, hr⟩
  | encode m p =>
    obtain ⟨r, hr, -⟩ := exec_onlyAnswers (.inr ⟨m, p, rfl⟩) s
    cases (hr s.responses).symm.trans hexec
    exact ⟨r, hr⟩

/-- A run does the same whatever was answered before it, and answers once per command. -/
theorem runInstrs_withResponses {is : List Instr} {s t : State} (hrun : runInstrs is s = .next t) :
    ∃ added : List Response, added.length = is.length ∧ t.responses = s.responses ++ added ∧
      ∀ rs, runInstrs is { s with responses := rs } = .next { t with responses := rs ++ added } := by
  induction is generalizing s with
  | nil =>
    cases hrun
    exact ⟨[], rfl, (List.append_nil _).symm, fun rs => by rw [List.append_nil]; rfl⟩
  | cons i is ih =>
    obtain ⟨u, -, hexec, -⟩ := exec_completes_frame i s
    rw [runInstrs_cons hexec] at hrun
    obtain ⟨r, hr, hexec'⟩ := exec_withResponses hexec
    obtain ⟨added, hlength, hadded, hrun'⟩ := ih hrun
    refine ⟨r :: added, congrArg (· + 1) hlength, ?_, fun rs => ?_⟩
    · rw [hadded, hr, List.append_assoc, List.singleton_append]
    · rw [runInstrs_cons (hexec' rs), List.append_cons rs r added]
      exact hrun' (rs ++ [r])

/-- A run's first command, the rest of the run, and the responses shared out between them. -/
theorem runInstrs_cons_split {i : Instr} {is : List Instr} {s t : State} {rs : List Response}
    (hrun : runInstrs (i :: is) s = .next t) (hresponses : t.responses = s.responses ++ rs) :
    ∃ (u : State) (r : Response) (rest : List Response), exec i s = .next u ∧ runInstrs is u = .next t ∧
      u.responses = s.responses ++ [r] ∧ t.responses = u.responses ++ rest ∧ rs = r :: rest := by
  obtain ⟨u, r, hexec, -, -, hr⟩ := exec_completes_frame i s
  rw [runInstrs_cons hexec] at hrun
  obtain ⟨rest, -, hrest, -⟩ := runInstrs_withResponses hrun
  refine ⟨u, r, rest, hexec, hrun, hr, hrest, ?_⟩
  rw [hrest, hr, List.append_assoc, List.append_cancel_left_eq] at hresponses
  exact hresponses.symm

/-- Settles O43: the commands after it run from the same state but for one response more, which they do not read. -/
theorem readsAndEncodesAreInvisible : Obligations.ReadsAndEncodesAreInvisible := by
  intro is1 is2 i s hi
  obtain ⟨t1, -, hrun1, hcfg, -⟩ := runInstrs_completes_frame is1 s
  obtain ⟨t2, -, hrun2, -⟩ := runInstrs_completes_frame is2 t1
  obtain ⟨added1, hlength, hadded1, -⟩ := runInstrs_withResponses hrun1
  obtain ⟨added2, -, hadded2, hrun2'⟩ := runInstrs_withResponses hrun2
  obtain ⟨r, hexec, hencode⟩ := exec_onlyAnswers hi t1
  refine ⟨t2, r, (runInstrs_append hrun1 is2).trans hrun2, ?_, hcfg ▸ hencode⟩
  have hsplit : s.responses.length + is1.length = t1.responses.length := by
    rw [hadded1, List.length_append, hlength]
  rw [runInstrs_append hrun1, runInstrs_cons (hexec t1.responses), hrun2', hadded2, hsplit, List.take_left,
    List.drop_left, List.append_assoc, List.singleton_append]

/-! ### The diagnostics along a frame (rules R18-R20, R82) -/

/-- The three diagnostic fields. -/
def diagnostics (s : State) : Word × Word × Cause := (s.discardCount, s.timeoutCount, s.lastCause)

/-- The diagnostics of a scanning decoder after a byte that completes no sync pair; its answer is `scanResponse`. -/
def scanDiagnostics (s : State) : Word × Word × Cause :=
  if s.decState = .awaitSync1 then (s.discardCount + 1, s.timeoutCount, .badSync1) else diagnostics s

theorem scanDiagnostics_timeoutCount (s : State) : (scanDiagnostics s).2.1 = s.timeoutCount := by
  unfold scanDiagnostics
  split <;> rfl

theorem exec_feed_keeps_diagnostics {b : Byte} {s t : State} {r : Response} (hexec : exec (.feed b) s = .next t)
    (hresponses : t.responses = s.responses ++ [r]) (hr : ∀ c, r ≠ .discarded c) : diagnostics t = diagnostics s := by
  cases hexec
  rcases feedArm_cases b (restartTimer s) with
    ⟨c, harm, -⟩ | ⟨-, -, harm⟩ | ⟨s', harm, -, -, -, hdiscard, htimeout, hcause, -⟩ <;> rw [harm] at hresponses ⊢
  · exact absurd (by simpa using hresponses.symm) (hr c)
  · rfl
  · exact Prod.ext hdiscard (Prod.ext htimeout hcause)

/-- FEEDs none of which is answered DISCARDED keep the diagnostics. -/
theorem runInstrs_feeds_keeps_diagnostics {bs : List Byte} {s t : State} {rs : List Response}
    (hrun : runInstrs (feeds bs) s = .next t) (hresponses : t.responses = s.responses ++ rs)
    (hrs : ∀ c, Response.discarded c ∉ rs) : diagnostics t = diagnostics s := by
  induction bs generalizing s rs with
  | nil =>
    cases hrun
    rfl
  | cons b bs ih =>
    obtain ⟨u, r, rest, hexec, hafter, hr, hrest, rfl⟩ := runInstrs_cons_split hrun hresponses
    rw [ih hafter hrest fun c hmem => hrs c (List.mem_cons_of_mem r hmem)]
    exact exec_feed_keeps_diagnostics hexec hr fun c hc => hrs c (hc ▸ List.mem_cons_self)

theorem exec_feed_sync0_diagnostics {s u : State} (hscan : scanning s = true)
    (hexec : exec (.feed sync0) s = .next u) : diagnostics u = scanDiagnostics s := by
  unfold scanDiagnostics
  rcases (scanning_iff s).1 hscan with hst | hst <;> rw [hst]
  · cases (feedInAwaitSync0 sync0 s hst).symm.trans hexec
    rfl
  · cases ((feedInAwaitSync1 sync0 s hst).2 (by decide)).symm.trans hexec
    rfl

/-- A whole legal frame fed to a scanning decoder: what `runInstrs_frame` says, and the diagnostics, which only its
first byte can change. -/
theorem runInstrs_frame_diagnostics {s : State} {t : Half} {p : List Byte} (h : Inv s) (hscan : scanning s = true)
    (hbound : p.length ≤ s.cfg.maxPayload.toNat) :
    ∃ v : State, runInstrs (feeds (frameBytes t p)) s = .next v ∧ v.decState = .awaitSync0 ∧
      v.responses =
        s.responses ++ (scanResponse s :: List.replicate (p.length + 6) .pending ++ [.message t p]) ∧
      diagnostics v = scanDiagnostics s := by
  obtain ⟨v, hrun, hidle, hresponses⟩ := runInstrs_frame (t := t) h hscan hbound
  refine ⟨v, hrun, hidle, hresponses, ?_⟩
  obtain ⟨rest, hframe⟩ : ∃ rest, frameBytes t p = sync0 :: rest := ⟨_, rfl⟩
  obtain ⟨u, hexec, hfirst, -⟩ := exec_feed_scanning (b := sync0) hscan fun _ => by decide
  rw [hframe, feeds_cons, runInstrs_cons hexec] at hrun
  rw [List.cons_append, List.append_cons, ← hfirst] at hresponses
  rw [runInstrs_feeds_keeps_diagnostics hrun hresponses (by simp), exec_feed_sync0_diagnostics hscan hexec]

/-- What the statements ask of the answers to a frame and of the diagnostics after it, by the state it began in. -/
theorem frame_answers {s v : State} {t : Half} {p : List Byte} {rs : List Response}
    (hrs : rs = scanResponse s :: List.replicate (p.length + 6) .pending ++ [.message t p])
    (hdiag : diagnostics v = scanDiagnostics s) :
    (s.decState = .awaitSync0 →
      rs = List.replicate (p.length + 7) .pending ++ [.message t p] ∧
      v.discardCount = s.discardCount ∧ v.lastCause = s.lastCause) ∧
    (s.decState = .awaitSync1 →
      rs = .discarded .badSync1 :: List.replicate (p.length + 6) .pending ++ [.message t p] ∧
      v.discardCount = s.discardCount + 1 ∧ v.lastCause = .badSync1) := by
  unfold scanResponse at hrs
  unfold scanDiagnostics at hdiag
  constructor <;> intro hst
  · have hst' : s.decState ≠ .awaitSync1 := by rw [hst]; nofun
    rw [if_neg hst'] at hrs hdiag
    exact ⟨hrs, congrArg (·.1) hdiag, congrArg (·.2.2) hdiag⟩
  · rw [if_pos hst] at hrs hdiag
    exact ⟨hrs, congrArg (·.1) hdiag, congrArg (·.2.2) hdiag⟩

/-- Settles O45: the bytes ENCODE answers are the frame's, and the frame is decoded. -/
theorem decoderInvertsEncoder : Obligations.DecoderInvertsEncoder := by
  intro s e t p bytes h hexec hframe
  rw [exec_encode_eq] at hexec
  cases hexec
  rw [newResponses_eq (State.respond_responses _ s), List.singleton_inj, encodeResponse_eq_frame_iff] at hframe
  obtain ⟨hbound, rfl⟩ := hframe
  have hdecoded (hscan : scanning s = true) := runInstrs_frame_diagnostics (t := t) h hscan hbound
  constructor <;> intro hst
  · obtain ⟨v, hrun, hidle, hresponses, hdiag⟩ := hdecoded ((scanning_iff s).2 (.inl hst))
    exact ⟨v, hrun, hidle, (frame_answers (newResponses_eq hresponses) hdiag).1 hst⟩
  · obtain ⟨v, hrun, hidle, hresponses, hdiag⟩ := hdecoded ((scanning_iff s).2 (.inr hst))
    exact ⟨v, hrun, hidle, (frame_answers (newResponses_eq hresponses) hdiag).2 hst⟩

/-! ### Commands between the bytes of a frame (rules R36, R81, R82) -/

/-- FEED reads neither `idle_ticks` nor the responses given before it. -/
theorem exec_feed_untimed {b : Byte} {s t : State} (hexec : exec (.feed b) s = .next t) :
    ∃ r : Response, t.responses = s.responses ++ [r] ∧
      ∀ n rs, exec (.feed b) { s with idleTicks := n, responses := rs } = .next { t with responses := rs ++ [r] } := by
  obtain ⟨r, hr, hany⟩ := exec_withResponses hexec
  exact ⟨r, hr, fun _ rs => hany rs⟩

/-- A TICK that does not time out, an RDREG and an ENCODE touch `idle_ticks` at most. -/
theorem exec_between_feeds {i : Instr} {s t : State} {r : Response} (hfeed : isFeed i = false) (hreset : i ≠ .reset)
    (hexec : exec i s = .next t) (hresponses : t.responses = s.responses ++ [r]) (hr : ∀ c, r ≠ .timedOut c) :
    t = { s with idleTicks := t.idleTicks, responses := t.responses } := by
  cases i with
  | feed b => cases hfeed
  | tick =>
    rcases execTick_cases s with ⟨-, htick⟩ | ⟨-, -, htick⟩ | ⟨-, -, htick⟩ <;> cases htick.symm.trans hexec
    · rfl
    · exact absurd (by simpa using hresponses.symm) (hr .timeout)
    · rfl
  | reset => exact absurd rfl hreset
  | rdreg n =>
    cases (exec_rdreg_eq n s).symm.trans hexec
    rfl
  | encode m p =>
    cases hexec
    rfl

theorem bytesFed_cons_of_not_feed {i : Instr} (hfeed : isFeed i = false) (is : List Instr) :
    bytesFed (i :: is) = bytesFed is := by
  cases i with
  | feed b => cases hfeed
  | tick => rfl
  | reset => rfl
  | rdreg r => rfl
  | encode t p => rfl

theorem isFeed_iff (i : Instr) : isFeed i = true ↔ ∃ b, i = .feed b := by
  cases i <;> simp [isFeed]

/-- Without RESET and timeout, the FEEDs of a run alone take the decoder where the run takes it, with the same answers,
whatever `idle_ticks` they find and whatever was answered before. -/
theorem runInstrs_feeds_alone {is : List Instr} {s t : State} {rs : List Response} (hreset : ∀ i ∈ is, i ≠ .reset)
    (hrun : runInstrs is s = .next t) (hresponses : t.responses = s.responses ++ rs)
    (htimed : ∀ c, Response.timedOut c ∉ rs) (n : Half) (before : List Response) :
    ∃ m : Half, runInstrs (feeds (bytesFed is)) { s with idleTicks := n, responses := before } =
      .next { t with idleTicks := m, responses := before ++ feedResponses is rs } := by
  induction is generalizing s rs n before with
  | nil =>
    cases hrun
    exact ⟨n, by simp only [feedResponses, List.append_nil]; rfl⟩
  | cons i is ih =>
    obtain ⟨u, r, rest, hexec, hafter, hr, hrest, rfl⟩ := runInstrs_cons_split hrun hresponses
    have hreset' : ∀ j ∈ is, j ≠ .reset := fun j hj => hreset j (List.mem_cons_of_mem i hj)
    have htimed' : ∀ c, Response.timedOut c ∉ rest := fun c hc => htimed c (List.mem_cons_of_mem r hc)
    cases hfeed : isFeed i with
    | true =>
      obtain ⟨b, rfl⟩ := (isFeed_iff i).1 hfeed
      obtain ⟨r', hr', hany⟩ := exec_feed_untimed hexec
      obtain rfl : r' = r := by simpa [hr] using hr'.symm
      obtain ⟨m, hm⟩ := ih hreset' hafter hrest htimed' u.idleTicks (before ++ [r'])
      refine ⟨m, ?_⟩
      rw [bytesFed, feeds_cons, runInstrs_cons (hany n before), feedResponses, if_pos hfeed,
        List.append_cons before r' (feedResponses is rest)]
      exact hm
    | false =>
      have hkept := exec_between_feeds hfeed (hreset i List.mem_cons_self) hexec hr
        fun c hc => htimed c (hc ▸ List.mem_cons_self)
      obtain ⟨m, hm⟩ := ih hreset' hafter hrest htimed' n before
      refine ⟨m, ?_⟩
      rw [hkept] at hm
      rw [bytesFed_cons_of_not_feed hfeed, feedResponses, if_neg (by rw [hfeed]; nofun)]
      exact hm

/-- Settles O48: the feeder's bytes alone are decoded, and so they are under the schedule. -/
theorem frameDecodesUnderEveryInterleaving : Obligations.FrameDecodesUnderEveryInterleaving := by
  intro s sch t p bytes h hscan hencode hroles hfeeder hreset
  obtain ⟨hbound, rfl⟩ := encodeResponse_eq_frame_iff.1 hencode
  have hfed : bytesFed sch.commands = frameBytes t p := by
    rw [sch.bytesFed_commands hroles, hfeeder, bytesFed_feeds]
  have hreset' : ∀ i ∈ sch.commands, i ≠ .reset := by
    intro i hi
    obtain ⟨ai, hai, rfl⟩ := List.mem_map.1 hi
    exact hreset ai hai
  obtain ⟨u, rs, hrun, -, hresponses⟩ := runInstrs_completes_frame sch.commands s
  refine ⟨u, hrun, ?_⟩
  rw [newResponses_eq hresponses]
  intro htimed
  obtain ⟨m, halone⟩ := runInstrs_feeds_alone hreset' hrun hresponses htimed s.idleTicks s.responses
  obtain ⟨v, hframe, hidle, hanswers, hdiag⟩ := runInstrs_frame_diagnostics (t := t) h hscan hbound
  rw [← hfed] at hframe
  cases hframe.symm.trans halone
  have htimeout : u.timeoutCount = s.timeoutCount := (congrArg (·.2.1) hdiag).trans (scanDiagnostics_timeoutCount s)
  exact ⟨hidle, htimeout, frame_answers (List.append_cancel_left hanswers) hdiag⟩

end Sys2Proof.Machine
end

section
/-!
PROOFS of the statements on the inactivity timer and RESET (spec/43_timer_control.md). A gap of TICKs after a byte has
three phases: up to TIMEOUT_TICKS they are counted, the next one times out, and the rest find the decoder idle.
-/
namespace Sys2Proof.Machine

/-! ### TICK's outcomes (rule R84) -/

/-- In AwaitSync0 a TICK only answers. -/
theorem exec_tick_idle {s : State} (hst : s.decState = .awaitSync0) :
    exec .tick s = .next { s with responses := s.responses ++ [.ok] } :=
  if_pos hst

/-- The machine's timeout is the one the statements write out field by field. -/
theorem timeOut_eq_afterIdle (s : State) :
    s.timeOut = { afterIdle (.timedOut .timeout) s with
      timeoutCount := s.timeoutCount + 1
      lastCause    := .timeout } := rfl

/-- Settles O34: counting a tick in 16 bits is counting it as a number. -/
theorem tickOutcomes : Obligations.TickOutcomes := by
  refine ⟨decode_encode (i := .tick) rfl, fun s => ⟨exec_tick_idle, fun hst hidle => ?_, fun hst hidle => ?_⟩⟩
  · rw [exec_tick_timesOut hst hidle, timeOut_eq_afterIdle]
  · have hcount : BitVec.ofNat 16 (s.idleTicks.toNat + 1) = s.idleTicks + 1 := by
      rw [BitVec.ofNat_add, BitVec.ofNat_toNat, BitVec.setWidth_eq]
      rfl
    rw [exec_tick_counts hst hidle, hcount]

/-! ### TICKs after a byte (rules R17, R85, R109) -/

/-- However many there are, TICKs in AwaitSync0 only answer. -/
theorem runInstrs_wait_idle (n : Nat) {s : State} (hst : s.decState = .awaitSync0) :
    runInstrs (wait n) s = .next { s with responses := s.responses ++ List.replicate n .ok } := by
  induction n with
  | zero => simp
  | succ n ih =>
    rw [wait_succ_last, runInstrs_append ih, runInstrs_one, exec_tick_idle]
    · simp [List.replicate_succ']
    · exact hst

/-- Settles O36: the TIMED_OUT is the answer to TICK number TIMEOUT_TICKS. -/
theorem timeoutRealTimeWindow : Obligations.TimeoutRealTimeWindow := by
  intro s P phase hphase hst hidle
  obtain ⟨-, htimeout⟩ := timeoutAtTickAfterTimeoutTicks s hst hidle
  refine ⟨s.cfg.timeoutTicks.toNat, _, htimeout, ?_⟩
  rw [newResponses_eq (List.append_assoc _ _ _)]
  refine ⟨by simp, fun j hj => ?_, Nat.le_add_left _ _, ?_⟩
  · rw [List.getElem?_append_left (by simpa using hj), List.getElem?_replicate_of_lt hj]
  · rw [Nat.succ_mul]
    omega

/-- A gap the timer bears: the byte after it finds the frame as the last byte left it. -/
theorem runInstrs_wait_feed_within {s u : State} {n : Nat} {b : Byte} (hst : s.decState ≠ .awaitSync0)
    (hidle : s.idleTicks = 0) (hn : n ≤ s.cfg.timeoutTicks.toNat) (hfeed : exec (.feed b) s = .next u) :
    runInstrs (wait n ++ [.feed b]) s =
      .next { u with responses := s.responses ++ List.replicate n .ok ++ newResponses s u } := by
  obtain ⟨r, hr, huntimed⟩ := exec_feed_untimed hfeed
  rw [runInstrs_append (runInstrs_wait_counts hst hidle hn), runInstrs_one, huntimed, newResponses_eq hr]

/-- A gap that outlasts the timer by `m` TICKs: the byte after it finds a decoder in AwaitSync0. -/
theorem runInstrs_wait_feed_beyond {s : State} (hst : s.decState ≠ .awaitSync0) (hidle : s.idleTicks = 0) (m : Nat)
    (b : Byte) :
    runInstrs (wait (s.cfg.timeoutTicks.toNat + 1 + m) ++ [.feed b]) s = .next { afterIdle .pending s with
      decState     := if b = 0xFF then .awaitSync1 else .awaitSync0
      timeoutCount := s.timeoutCount + 1
      lastCause    := .timeout
      responses    := s.responses ++ List.replicate s.cfg.timeoutTicks.toNat .ok ++ [.timedOut .timeout] ++
        List.replicate m .ok ++ [.pending] } := by
  obtain ⟨-, htimeout⟩ := timeoutAtTickAfterTimeoutTicks s hst hidle
  have hsplit : wait (s.cfg.timeoutTicks.toNat + 1 + m) = wait (s.cfg.timeoutTicks.toNat + 1) ++ wait m :=
    List.replicate_add _ _ _
  rw [hsplit, List.append_assoc, runInstrs_append htimeout, runInstrs_append (runInstrs_wait_idle m rfl),
    runInstrs_one, feedInAwaitSync0 b _ rfl]
  rfl

/-- Settles O37: a longer gap is the timeout's TIMEOUT_TICKS + 1 TICKs and some more. -/
theorem gapsSplitAFrameOnlyBeyondTimeoutTicks : Obligations.GapsSplitAFrameOnlyBeyondTimeoutTicks := by
  intro s n b hst hidle
  refine ⟨fun hn => ?_, fun hn => ?_⟩
  · obtain ⟨u, -, hfeed, -⟩ := exec_completes_frame (.feed b) s
    exact ⟨u, hfeed, runInstrs_wait_feed_within hst hidle hn hfeed⟩
  · obtain ⟨m, rfl⟩ := Nat.exists_eq_add_of_lt hn
    have hrest : s.cfg.timeoutTicks.toNat + m + 1 - s.cfg.timeoutTicks.toNat - 1 = m := by omega
    rw [hrest, Nat.add_right_comm]
    exact runInstrs_wait_feed_beyond hst hidle m b

/-! ### RESET (rules R24, R86) -/

/-- RESET's fields are those of power-on reset under the same configuration, apart from the port, the buffer and the
responses. -/
theorem exec_reset_eq_resetWith (s : State) :
    exec .reset s = .next { State.resetWith s.cfg with
      port      := s.port
      pb        := s.pb
      responses := s.responses ++ [.ok] } :=
  exec_reset_eq s

/-- Settles O38. -/
theorem resetGivesTheResetState : Obligations.ResetGivesTheResetState :=
  ⟨decode_encode (i := .reset) rfl, exec_reset_eq_resetWith⟩

end Sys2Proof.Machine
end

section
/-!
PROOFS of the statements on exceptions (spec/60_exceptions.md): there are none. A command the decoder accepts is performed,
and one it refuses is answered ILLEGAL; either way the block goes on with the rest of the port.
-/
namespace Sys2Proof.Machine

/-- Settles O9: the frame of `exec` speaks of the state with the command accepted, whose port is the rest. -/
theorem everyCommandAnswersExactlyOnce : Obligations.EveryCommandAnswersExactlyOnce := by
  intro s c rest hport
  cases hdecode : decode c with
  | ok i =>
    obtain ⟨t, r, hexec, -, hwaiting, hresponses⟩ := exec_completes_frame i { s with port := rest }
    exact ⟨t, r, (step_of_decode_ok hport hdecode).trans hexec, hwaiting, hresponses⟩
  | error e => exact ⟨_, .illegal, step_of_decode_error hport hdecode, rfl, rfl⟩

end Sys2Proof.Machine
end

section
/-!
PROOFS of the statements on reset, hazards and the host table (spec/70_reset_and_hazards.md). RESET leaves two blocks under
one configuration alike but for the port, the payload buffer and the responses, none of which a command reads
(`runInstrs_elsewhere`). Between two bytes only TICKs count: a wait ends when more of them come than the timer bears
(`WaitEnds`). A connection whose hosts keep their duties is on time (`OnTime`): each command finds the timer below its bound
and leaves the rest on time, so nothing times out, and its FEEDs deliver what they deliver alone.
-/
namespace Sys2Proof.Machine

/-! ### The column "block returns" (rule R112) -/

/-- Settles O51: row by row, from what each command can do. -/
theorem hostTableReturns : Obligations.HostTableReturns := by
  intro i s
  cases i with
  | feed b =>
    obtain ⟨t, r, hexec, hr, hkind, -⟩ := feedFrame b s
    refine ⟨t, r, hexec, hr, ?_⟩
    rcases hkind with rfl | ⟨m, p, rfl⟩ | ⟨c, rfl⟩ <;> rfl
  | tick =>
    rcases execTick_cases s with ⟨-, htick⟩ | ⟨-, -, htick⟩ | ⟨-, -, htick⟩
    · exact ⟨_, .ok, htick, rfl, rfl⟩
    · exact ⟨_, .timedOut .timeout, htick, State.timeOut_responses s, rfl⟩
    · exact ⟨_, .ok, htick, rfl, rfl⟩
  | reset => exact ⟨_, .ok, rfl, rfl, rfl⟩
  | rdreg n =>
    refine ⟨_, _, exec_rdreg_eq n s, rfl, ?_⟩
    cases Reg.ofNumber n <;> rfl
  | encode t p =>
    refine ⟨_, _, exec_encode_eq t p s, rfl, ?_⟩
    unfold encodeResponse
    split <;> rfl

/-! ### What no command reads: the port, the payload buffer, the responses (rules R16, R32, R33, R106) -/

theorem discard_withBuffer (cause : Cause) (b : Byte) (s : State) (pb : Memory) :
    State.discard cause b { s with pb := pb } = { s.discard cause b with pb := pb } := by
  unfold State.discard State.rescan
  split <;> rfl

/-- Outside ReadPayload no arm touches the payload buffer. -/
theorem feedArm_withBuffer {s : State} (hst : s.decState ≠ .readPayload) (b : Byte) (pb : Memory) :
    feedArm b { s with pb := pb } = { feedArm b s with pb := pb } := by
  obtain ⟨st, hst'⟩ : ∃ st, s.decState = st := ⟨_, rfl⟩
  cases st
  case awaitSync0 =>
    rw [feedArm_of_awaitSync0 hst', feedArm_of_awaitSync0 (s := { s with pb := pb }) hst', armSync0, armSync0]
    split <;> rfl
  case awaitSync1 =>
    rw [feedArm_of_awaitSync1 hst', feedArm_of_awaitSync1 (s := { s with pb := pb }) hst', armSync1, armSync1]
    split
    · rfl
    · exact discard_withBuffer _ b s pb
  case readLength =>
    rw [feedArm_of_readLength hst', feedArm_of_readLength (s := { s with pb := pb }) hst', armLen, armLen]
    split <;> rfl
  case verifyLengthChecksum =>
    rw [feedArm_of_verifyLengthChecksum hst', feedArm_of_verifyLengthChecksum (s := { s with pb := pb }) hst', armLck,
      armLck]
    cases lenCheck s.cfg.maxPayload s.decLength b
    case badLengthChecksum => exact discard_withBuffer _ b s pb
    case oversizedLength => exact discard_withBuffer _ b s pb
    case ok => rfl
  case readTopicId =>
    rw [feedArm_of_readTopicId hst', feedArm_of_readTopicId (s := { s with pb := pb }) hst', armTopic, armTopic]
    split <;> rfl
  case readPayload => exact absurd hst' hst
  case verifyMessageChecksum =>
    rw [feedArm_of_verifyMessageChecksum hst', feedArm_of_verifyMessageChecksum (s := { s with pb := pb }) hst', armMck,
      armMck]
    split
    · rfl
    · exact discard_withBuffer _ b s pb

/-- In ReadPayload the byte goes to the same place of whatever the buffer holds. -/
theorem armPayload_withBuffer (b : Byte) (s : State) (pb : Memory) :
    armPayload b { s with pb := pb } = { armPayload b s with pb := Memory.write pb s.decIndex.toNat b } := by
  by_cases hlast : s.decIndex + 1 = s.decLength
  · rw [armPayload_last hlast, armPayload_last (s := { s with pb := pb }) hlast]
    rfl
  · rw [armPayload_more hlast, armPayload_more (s := { s with pb := pb }) hlast]
    rfl

/-- A FEED does the same whatever the payload buffer holds. -/
theorem exec_feed_withBuffer {b : Byte} {s t : State} (hexec : exec (.feed b) s = .next t) (pb : Memory) :
    ∃ pb' : Memory, exec (.feed b) { s with pb := pb } = .next { t with pb := pb' } := by
  cases hexec
  by_cases hst : s.decState = .readPayload
  · refine ⟨Memory.write pb s.decIndex.toNat b, ?_⟩
    rw [execFeed_eq, feedArm_of_readPayload (s := restartTimer s) hst,
      feedArm_of_readPayload (s := restartTimer { s with pb := pb }) hst]
    exact congrArg Host.Outcome.next (armPayload_withBuffer b (restartTimer s) pb)
  · exact ⟨pb, congrArg Host.Outcome.next (feedArm_withBuffer (s := restartTimer s) hst b pb)⟩

/-- A command does the same whatever the payload buffer holds. -/
theorem exec_withBuffer {i : Instr} {s t : State} (hexec : exec i s = .next t) (pb : Memory) :
    ∃ pb' : Memory, exec i { s with pb := pb } = .next { t with pb := pb' } := by
  cases i with
  | feed b => exact exec_feed_withBuffer hexec pb
  | tick =>
    refine ⟨pb, ?_⟩
    rcases execTick_cases s with ⟨hst, htick⟩ | ⟨hst, hle, htick⟩ | ⟨hst, hlt, htick⟩ <;> cases htick.symm.trans hexec
    · exact if_pos hst
    · exact exec_tick_timesOut (s := { s with pb := pb }) hst hle
    · exact exec_tick_counts (s := { s with pb := pb }) hst hlt
  | reset =>
    cases hexec
    exact ⟨pb, rfl⟩
  | rdreg n =>
    cases (exec_rdreg_eq n s).symm.trans hexec
    exact ⟨pb, exec_rdreg_eq n { s with pb := pb }⟩
  | encode m p =>
    cases hexec
    exact ⟨pb, rfl⟩

/-- A run does the same whatever waits at the port, the payload buffer holds and was answered before it. -/
theorem runInstrs_elsewhere {is : List Instr} {s t : State} (hrun : runInstrs is s = .next t) :
    ∃ added : List Response, t.responses = s.responses ++ added ∧
      ∀ port pb rs, ∃ pb', runInstrs is { s with port := port, pb := pb, responses := rs } =
        .next { t with port := port, pb := pb', responses := rs ++ added } := by
  induction is generalizing s with
  | nil =>
    cases hrun
    exact ⟨[], (List.append_nil _).symm, fun _ pb rs => ⟨pb, by rw [List.append_nil]; rfl⟩⟩
  | cons i is ih =>
    obtain ⟨u, -, hexec, -⟩ := exec_completes_frame i s
    rw [runInstrs_cons hexec] at hrun
    obtain ⟨r, hr, -⟩ := exec_withResponses hexec
    obtain ⟨added, hadded, hrest⟩ := ih hrun
    refine ⟨r :: added, by rw [hadded, hr, List.append_assoc, List.singleton_append], fun port pb rs => ?_⟩
    obtain ⟨pb₁, hbuffer⟩ := exec_withBuffer (exec_withPort hexec port) pb
    obtain ⟨r', hr', hanswer⟩ := exec_withResponses hbuffer
    obtain rfl : r' = r := by simpa [hr] using hr'.symm
    obtain ⟨pb₂, hrest⟩ := hrest port pb₁ (rs ++ [r'])
    exact ⟨pb₂, by rw [runInstrs_cons (hanswer rs), hrest, List.append_assoc, List.singleton_append]⟩

/-! ### RESET at connection start (rules R86, R105) -/

/-- The commands of a connection that begins with RESET. -/
theorem commands_of_resetAtStart {c : Connection} (hreset : Duty.resetAtStart.kept c) :
    ∃ e rest, c.events = e :: rest ∧ e.instr = .reset ∧ c.commands = .reset :: rest.map Event.instr := by
  obtain ⟨e, rest, -, hevents, he, -⟩ := hreset
  exact ⟨e, rest, hevents, he, by rw [Connection.commands, hevents, List.map_cons, he]⟩

/-- Settles O52: after the RESET both runs go on from the reset state, but for what no command reads. -/
theorem resetAtStartForgetsThePreviousConnection : Obligations.ResetAtStartForgetsThePreviousConnection := by
  intro c s hreset hcfg
  obtain ⟨-, rest, -, -, hcommands⟩ := commands_of_resetAtStart hreset
  obtain ⟨v, -, hrun, -⟩ := runInstrs_completes_frame (rest.map Event.instr) ((State.resetWith c.cfg).respond .ok)
  obtain ⟨added, hadded, helsewhere⟩ := runInstrs_elsewhere hrun
  obtain ⟨pb', hrun'⟩ := helsewhere s.port s.pb (s.responses ++ [.ok])
  refine ⟨{ v with port := s.port, pb := pb', responses := s.responses ++ [.ok] ++ added }, v, ?_, ?_, ?_, rfl⟩
  · rw [hcommands, runInstrs_cons (exec_reset_eq_resetWith s), hcfg]
    exact hrun'
  · rw [hcommands, runInstrs_cons (exec_reset_eq_resetWith _)]
    exact hrun
  · rw [newResponses_eq (rs := .ok :: added) (List.append_assoc s.responses _ _),
      newResponses_eq (rs := .ok :: added) hadded]

/-! ### Frames one after the other (rules R77, R82) -/

/-- What an idle decoder answers to the frames of `sent`. -/
def deliveries (sent : List (Half × List Byte)) : List Response :=
  (sent.map fun m => List.replicate (m.2.length + 7) Response.pending ++ [.message m.1 m.2]).flatten

/-- The bytes of the frames of `sent`. -/
def framesOf (sent : List (Half × List Byte)) : List Byte := (sent.map fun m => frameBytes m.1 m.2).flatten

/-- An idle decoder that is fed whole legal frames delivers each of them, and discards nothing. -/
theorem runInstrs_frames {sent : List (Half × List Byte)} {s : State} (h : Inv s) (hidle : s.decState = .awaitSync0)
    (hbound : ∀ m ∈ sent, m.2.length ≤ s.cfg.maxPayload.toNat) :
    ∃ v : State, runInstrs (feeds (framesOf sent)) s = .next v ∧ v.decState = .awaitSync0 ∧
      v.responses = s.responses ++ deliveries sent ∧ diagnostics v = diagnostics s := by
  induction sent generalizing s with
  | nil => exact ⟨s, rfl, hidle, (List.append_nil _).symm, rfl⟩
  | cons m sent ih =>
    obtain ⟨u, hframe, hidle', hresponses, hdiag⟩ := runInstrs_frame_diagnostics (t := m.1) h
      ((scanning_iff s).2 (.inl hidle)) (hbound m List.mem_cons_self)
    have hcfg : u.cfg = s.cfg :=
      runInstrs_keeps (P := fun x => x.cfg = s.cfg) (fun _ _ _ hx hexec => (exec_keeps_cfg hexec).trans hx) rfl hframe
    obtain ⟨v, hrest, hidle'', hresponses', hdiag'⟩ := ih (runInstrs_keeps_inv h hframe) hidle'
      fun m' hm' => hcfg ▸ hbound m' (List.mem_cons_of_mem m hm')
    refine ⟨v, ?_, hidle'', ?_, ?_⟩
    · rw [framesOf, List.map_cons, List.flatten_cons, feeds_append, runInstrs_append hframe]
      exact hrest
    · rw [hresponses', hresponses, List.append_assoc]
      simp [deliveries, scanResponse, hidle, List.replicate_succ]
    · simp [hdiag', hdiag, scanDiagnostics, hidle]

/-- Settles O55: an order of the frames is an order of the messages framed. -/
theorem contiguousOutputIsDecodedByThePeer : Obligations.ContiguousOutputIsDecodedByThePeer := by
  rintro c peer ⟨frames, hperm, houtput⟩ h hidle hmax
  obtain ⟨order, rfl, horder⟩ := (congrFun₂ (List.eq_map_comp_perm _) frames c.framed).mpr hperm
  have hbound : ∀ m ∈ order, m.2.length ≤ peer.cfg.maxPayload.toNat := fun m hm => by
    rw [hmax]
    exact of_decide_eq_true (List.mem_filter.1 (horder.subset hm)).2
  obtain ⟨u, hrun, hidle', hresponses, -⟩ := runInstrs_frames h hidle hbound
  exact ⟨u, order, horder, houtput ▸ hrun, hidle', newResponses_eq hresponses⟩

/-! ### Commands between two bytes (rules R84, R108, R112) -/

/-- A command that is neither FEED nor RESET, where it is a TICK below the timer's bound, times nothing out: it touches
`idle_ticks` at most, and a TICK adds at most one to it. -/
theorem exec_waits {i : Instr} {s : State} (hfeed : isFeed i = false) (hreset : i ≠ .reset)
    (hbelow : i = .tick → s.decState ≠ .awaitSync0 → s.idleTicks.toNat < s.cfg.timeoutTicks.toNat) :
    ∃ (u : State) (r : Response), exec i s = .next u ∧ u.responses = s.responses ++ [r] ∧
      (∀ c, r ≠ .timedOut c) ∧ u = { s with idleTicks := u.idleTicks, responses := u.responses } ∧
      u.idleTicks.toNat ≤ s.idleTicks.toNat + [i].count .tick := by
  cases i with
  | feed b => cases hfeed
  | tick =>
    by_cases hst : s.decState = .awaitSync0
    · exact ⟨_, .ok, exec_tick_idle hst, rfl, nofun, rfl, Nat.le_add_right _ _⟩
    · refine ⟨_, .ok, exec_tick_counts hst (hbelow rfl hst), rfl, nofun, rfl, ?_⟩
      show (s.idleTicks + 1).toNat ≤ s.idleTicks.toNat + 1
      bv_omega
  | reset => exact absurd rfl hreset
  | rdreg n =>
    refine ⟨_, _, exec_rdreg_eq n s, rfl, ?_, rfl, Nat.le_refl _⟩
    cases Reg.ofNumber n <;> nofun
  | encode t p =>
    refine ⟨_, _, exec_encode_eq t p s, rfl, ?_, rfl, Nat.le_refl _⟩
    unfold encodeResponse
    split <;> nofun

/-- No more TICKs than the timer bears, and no FEED or RESET: nothing times out, and only `idle_ticks` and the responses
change. -/
theorem runInstrs_waits {is : List Instr} {s : State} (hwait : ∀ i ∈ is, isFeed i = false ∧ i ≠ .reset)
    (hticks : s.idleTicks.toNat + is.count .tick ≤ s.cfg.timeoutTicks.toNat) :
    ∃ (u : State) (rs : List Response), runInstrs is s = .next u ∧ u.responses = s.responses ++ rs ∧
      (∀ c, Response.timedOut c ∉ rs) ∧ u = { s with idleTicks := u.idleTicks, responses := u.responses } := by
  induction is generalizing s with
  | nil => exact ⟨s, [], rfl, (List.append_nil _).symm, fun _ => List.not_mem_nil, rfl⟩
  | cons i is ih =>
    obtain ⟨hfeed, hreset⟩ := hwait i List.mem_cons_self
    have hsplit : (i :: is).count .tick = [i].count .tick + is.count .tick := List.count_append (l₁ := [i])
    have hbelow : i = .tick → s.decState ≠ .awaitSync0 → s.idleTicks.toNat < s.cfg.timeoutTicks.toNat := by
      rintro rfl -
      rw [List.count_singleton_self] at hsplit
      omega
    obtain ⟨u, r, hexec, hr, hnot, hkept, hidle⟩ := exec_waits hfeed hreset hbelow
    obtain ⟨v, rs, hrun, hrs, hnots, hkept'⟩ := ih (s := u) (fun j hj => hwait j (List.mem_cons_of_mem i hj))
      (by rw [exec_keeps_cfg hexec]; omega)
    refine ⟨v, r :: rs, (runInstrs_cons hexec is).trans hrun, ?_,
      fun c => List.not_mem_cons_of_ne_of_not_mem (hnot c).symm (hnots c), ?_⟩
    · rw [hrs, hr, List.append_assoc, List.singleton_append]
    · rw [hkept', hkept]

/-- RDREGs and ENCODEs only answer, however many they are. -/
theorem runInstrs_onlyAnswers {is : List Instr} (his : ∀ i ∈ is, (∃ r, i = .rdreg r) ∨ ∃ t p, i = .encode t p)
    (s : State) : ∃ rs : List Response, runInstrs is s = .next { s with responses := rs } := by
  induction is generalizing s with
  | nil => exact ⟨s.responses, rfl⟩
  | cons i is ih =>
    obtain ⟨r, hexec, -⟩ := exec_onlyAnswers (his i List.mem_cons_self) s
    rw [runInstrs_cons (hexec s.responses)]
    exact ih (fun j hj => his j (List.mem_cons_of_mem i hj)) _

/-- The wait is over, or as many TICKs are still to come as end it. -/
def WaitEnds (is : List Instr) (s : State) : Prop :=
  s.decState = .awaitSync0 ∨ s.idleTicks.toNat ≤ s.cfg.timeoutTicks.toNat ∧
    s.cfg.timeoutTicks.toNat < s.idleTicks.toNat + is.count .tick

/-- Without FEED, each command brings the end of the wait nearer. -/
theorem waitEnds_exec {i : Instr} {is : List Instr} {s u : State} (hfeed : isFeed i = false)
    (hends : WaitEnds (i :: is) s) (hexec : exec i s = .next u) : WaitEnds is u := by
  cases i with
  | feed b => cases hfeed
  | tick =>
    rcases hends with hst | ⟨hle, hcount⟩
    · cases (exec_tick_idle hst).symm.trans hexec
      exact .inl hst
    · rw [List.count_cons_self] at hcount
      rcases execTick_cases s with ⟨hst, htick⟩ | ⟨-, -, htick⟩ | ⟨-, hlt, htick⟩ <;> cases htick.symm.trans hexec
      · exact .inl hst
      · exact .inl rfl
      · refine .inr (show (s.idleTicks + 1).toNat ≤ s.cfg.timeoutTicks.toNat ∧
          s.cfg.timeoutTicks.toNat < (s.idleTicks + 1).toNat + is.count .tick from ?_)
        bv_omega
  | reset =>
    cases hexec
    exact .inl rfl
  | rdreg n =>
    cases (exec_rdreg_eq n s).symm.trans hexec
    exact hends
  | encode t p =>
    cases hexec
    exact hends

theorem runInstrs_waitEnds {is : List Instr} {s : State} (hfeed : ∀ i ∈ is, isFeed i = false) (hends : WaitEnds is s) :
    ∃ u : State, runInstrs is s = .next u ∧ u.decState = .awaitSync0 := by
  induction is generalizing s with
  | nil => exact ⟨s, rfl, hends.resolve_right fun ⟨hle, hlt⟩ => Nat.not_lt.2 hle hlt⟩
  | cons i is ih =>
    obtain ⟨u, -, hexec, -⟩ := exec_completes_frame i s
    rw [runInstrs_cons hexec]
    exact ih (fun j hj => hfeed j (List.mem_cons_of_mem i hj)) (waitEnds_exec (hfeed i List.mem_cons_self) hends hexec)

/-! ### How many TICKs the tick duty gives (rule R108) -/

theorem Connection.count_tick_commands (c : Connection) : c.commands.count .tick = c.tickTimes.length := by
  have key : ∀ es : List Event, (es.map Event.instr).count .tick = (es.filterMap Event.tickTime).length := by
    intro es
    induction es with
    | nil => rfl
    | cons e es ih =>
      obtain ⟨n, a, i⟩ := e
      cases i <;> simp_all [Event.tickTime, List.filterMap_cons]
  exact key c.events

/-- A connection of `m` periods and one more has more than `m` TICKs. -/
theorem lt_count_tick {c : Connection} {m : Nat} (hduty : Duty.tickEveryPeriod.kept c)
    (hlong : c.start + (m + 1) * c.period ≤ c.stop) : m < c.commands.count .tick := by
  obtain ⟨phase, n, hphase, htimes, hstop⟩ := hduty
  rw [c.count_tick_commands, htimes, List.length_map, List.length_range]
  have hperiods : (m + 1) * c.period < (n + 1) * c.period := by
    rw [Nat.succ_mul n]
    omega
  exact Nat.succ_lt_succ_iff.1 (Nat.lt_of_mul_lt_mul_right hperiods)

/-- A connection shorter than `m` periods has at most `m` TICKs. -/
theorem count_tick_le {c : Connection} {m : Nat} (hduty : Duty.tickEveryPeriod.kept c) (hordered : c.ordered)
    (hshort : c.stop < c.start + m * c.period) : c.commands.count .tick ≤ m := by
  obtain ⟨phase, n, hphase, htimes, -⟩ := hduty
  rw [c.count_tick_commands, htimes, List.length_map, List.length_range]
  cases n with
  | zero => exact Nat.zero_le m
  | succ k =>
    have hlast : c.start + phase + k * c.period ∈ c.tickTimes :=
      htimes ▸ List.mem_map_of_mem (List.mem_range.2 k.lt_succ_self)
    obtain ⟨e, he, htime⟩ := List.mem_filterMap.1 hlast
    obtain ⟨-, htime⟩ := Event.tickTime_eq_some.1 htime
    obtain ⟨-, hstop⟩ := hordered.2 e he
    have hperiods : k * c.period < m * c.period := by omega
    exact Nat.lt_of_mul_lt_mul_right hperiods

/-- Settles O54: the tick duty says how many TICKs come, and they are what the wait is measured in. -/
theorem onlyADutyEndsAWait : Obligations.OnlyADutyEndsAWait := by
  intro c s hordered hcfg hst hidle hcommands
  have hfeed : ∀ i ∈ c.commands, isFeed i = false := fun i hi => by
    rcases hcommands i hi with rfl | hliberty
    · rfl
    · rcases isLiberty_cases i hliberty with rfl | ⟨r, rfl⟩ | ⟨t, p, rfl⟩ <;> rfl
  have hzero : s.idleTicks.toNat = 0 := by rw [hidle]; rfl
  refine ⟨fun hduty hlong => ?_, fun hduty hshort hreset => ?_, fun hquiet => ?_⟩
  · have hmany := lt_count_tick hduty hlong
    exact runInstrs_waitEnds hfeed (.inr ⟨by omega, by rw [hcfg]; omega⟩)
  · have hfew := count_tick_le hduty hordered hshort
    obtain ⟨u, rs, hrun, hrs, hnot, hkept⟩ :=
      runInstrs_waits (s := s) (fun i hi => ⟨hfeed i hi, hreset i hi⟩) (by rw [hcfg]; omega)
    exact ⟨u, hkept ▸ hrun, newResponses_eq hrs ▸ hnot⟩
  · obtain ⟨rs, hrun⟩ := runInstrs_onlyAnswers (is := c.commands) (fun i hi => by
      obtain ⟨htick, hreset⟩ := hquiet i hi
      exact (isLiberty_cases i ((hcommands i hi).resolve_left htick)).resolve_left hreset) s
    exact ⟨{ s with responses := rs }, hrun⟩

/-! ### Connections that are on time (rules R93, R105-R109) -/

/-- Of two events, the first accepted first: they are in order, TICKs are a period apart, and a byte that arrives together
with a TICK comes before it. -/
def Spaced (period : Nat) (e f : Event) : Prop :=
  e.time ≤ f.time ∧ (e.instr = .tick → f.instr = .tick → e.time + period ≤ f.time) ∧
    (e.instr = .tick → ∀ b, f.instr = .feed b → e.time < f.time)

theorem tickTimes_spaced {c : Connection} (hduty : Duty.tickEveryPeriod.kept c) :
    c.tickTimes.Pairwise fun t t' => t + c.period ≤ t' := by
  obtain ⟨phase, n, -, htimes, -⟩ := hduty
  rw [htimes, List.pairwise_map]
  refine List.pairwise_lt_range.imp fun {j k} hjk => ?_
  have hperiods : (j + 1) * c.period ≤ k * c.period := Nat.mul_le_mul_right _ hjk
  rw [Nat.succ_mul] at hperiods
  omega

theorem events_spaced {c : Connection} (hordered : c.ordered) (htick : Duty.tickEveryPeriod.kept c)
    (htie : Duty.feedFirstOnTie.kept c) : c.events.Pairwise (Spaced c.period) := by
  have hticks := List.pairwise_filterMap.1 (tickTimes_spaced htick)
  refine (hordered.1.and (hticks.and htie)).imp ?_
  rintro e f ⟨hle, hgap, hlt⟩
  refine ⟨hle, fun he hf => ?_, fun he b hf => ?_⟩
  · exact hgap _ (Event.tickTime_eq_some.2 ⟨he, rfl⟩) _ (Event.tickTime_eq_some.2 ⟨hf, rfl⟩)
  · exact hlt (Option.isSome_iff_exists.2 ⟨_, Event.tickTime_eq_some.2 ⟨he, rfl⟩⟩)
      (Option.isSome_iff_exists.2 ⟨(f.time, b), Event.fed_eq_some.2 ⟨hf, rfl⟩⟩)

/-- One feeder in arrival order: the bytes fed are the bytes received (rule R107). -/
theorem fed_eq_received {c : Connection} (hone : Duty.oneFeeder.kept c) (horder : Duty.arrivalOrder.kept c) :
    c.fed.map Prod.snd = c.received := by
  have hfeeder : ∀ e ∈ c.events,
      (if decide (e.agent = .rxFeeder) = true then Event.fed e else none) = Event.fed e := fun e he => by
    cases hfed : e.fed with
    | none => simp
    | some x => simp [hone e he (by rw [hfed]; rfl)]
  rw [← show _ = c.received from horder, List.filterMap_filter, List.filterMap_congr hfeeder]
  rfl

/-- The bytes a list of events feeds, as commands and as events. -/
theorem bytesFed_events (es : List Event) :
    bytesFed (es.map Event.instr) = (es.filterMap Event.fed).map Prod.snd :=
  Connection.bytesFed_commands
    { cfg := Config.standard, period := 0, start := 0, stop := 0, events := es, received := [], output := [] }

theorem fed_cons_of_not_feed {e : Event} (hfeed : isFeed e.instr = false) (es : List Event) :
    (e :: es).filterMap Event.fed = es.filterMap Event.fed := by
  refine List.filterMap_cons_none (Option.eq_none_iff_forall_not_mem.2 fun x hx => ?_)
  obtain ⟨hinstr, -⟩ := Event.fed_eq_some.1 hx
  rw [hinstr] at hfeed
  cases hfeed

/-- The bytes `rest` take the decoder to AwaitSync0: they are what its frame in progress still needs. -/
def Completes (rest : List Byte) (s : State) : Prop :=
  ∃ v : State, runInstrs (feeds rest) s = .next v ∧ v.decState = .awaitSync0

theorem completes_nil_iff (s : State) : Completes [] s ↔ s.decState = .awaitSync0 :=
  ⟨fun ⟨_, hrun, hidle⟩ => Host.Outcome.next.inj hrun ▸ hidle, fun hidle => ⟨s, rfl, hidle⟩⟩

theorem completes_cons_iff {b : Byte} {rest : List Byte} {s u : State} (hexec : exec (.feed b) s = .next u) :
    Completes (b :: rest) s ↔ Completes rest u := by
  rw [Completes, feeds_cons, runInstrs_cons hexec, Completes]

/-- What the frame in progress needs does not depend on the timer. -/
theorem Completes.untimed {rest : List Byte} {s : State} (h : Completes rest s) (n : Half) (rs : List Response) :
    Completes rest { s with idleTicks := n, responses := rs } := by
  cases rest with
  | nil => exact (completes_nil_iff _).2 ((completes_nil_iff s).1 h)
  | cons b rest =>
    obtain ⟨u, -, hexec, -⟩ := exec_completes_frame (.feed b) s
    obtain ⟨r, -, huntimed⟩ := exec_feed_untimed hexec
    obtain ⟨v, hrun, hidle⟩ := (completes_cons_iff hexec).1 h
    obtain ⟨added, -, -, hany⟩ := runInstrs_withResponses hrun
    exact (completes_cons_iff (huntimed n rs)).2 ⟨_, hany (rs ++ [r]), hidle⟩

/-- The events `es` are on time from state `s`, whose last byte came at time `last`: their bytes are what the frame in
progress still needs, `rest`, and the frames of `sent`; no gap in a frame is longer than TIMEOUT_TICKS periods; and
mid-frame every TICK to come is later than `last` by a period for each TICK counted. -/
structure OnTime (period last : Nat) (rest : List Byte) (sent : List (Half × List Byte)) (s : State) (es : List Event) :
    Prop where
  inv : Inv s
  bound : ∀ m ∈ sent, m.2.length ≤ s.cfg.maxPayload.toNat
  noReset : ∀ e ∈ es, e.instr ≠ .reset
  spaced : es.Pairwise (Spaced period)
  completes : Completes rest s
  bytes : (es.filterMap Event.fed).map Prod.snd = rest ++ framesOf sent
  gap : (last :: ((es.filterMap Event.fed).map Prod.fst).take rest.length).IsChain fun a b =>
    b ≤ a + s.cfg.timeoutTicks.toNat * period
  gaps : gapsWithin (s.cfg.timeoutTicks.toNat * period) sent (((es.filterMap Event.fed).map Prod.fst).drop rest.length)
  timer : s.decState ≠ .awaitSync0 → ∀ e ∈ es, e.instr = .tick → last + s.idleTicks.toNat * period ≤ e.time

section
variable {period last : Nat} {rest : List Byte} {sent : List (Half × List Byte)} {s u : State} {e : Event}
  {es : List Event}

/-- On time, a byte goes on the frame in progress or begins the next one: `rest'` is what is left of its frame. -/
theorem OnTime.frame_of_byte {b : Byte} (h : OnTime period last rest sent s (e :: es)) (hinstr : e.instr = .feed b) :
    ∃ rest' sent', Completes (b :: rest') s ∧ (∀ m ∈ sent', m ∈ sent) ∧
      (es.filterMap Event.fed).map Prod.snd = rest' ++ framesOf sent' ∧
      ((e.time :: ((es.filterMap Event.fed).map Prod.fst).take rest'.length).IsChain fun a b =>
        b ≤ a + s.cfg.timeoutTicks.toNat * period) ∧
      gapsWithin (s.cfg.timeoutTicks.toNat * period) sent'
        (((es.filterMap Event.fed).map Prod.fst).drop rest'.length) := by
  have hfed : (e :: es).filterMap Event.fed = (e.time, b) :: es.filterMap Event.fed :=
    List.filterMap_cons_some (Event.fed_eq_some.2 ⟨hinstr, rfl⟩)
  have hcompletes := h.completes
  have hbytes := h.bytes
  have hgap := h.gap
  have hgaps := h.gaps
  rw [hfed, List.map_cons] at hbytes hgap hgaps
  cases rest with
  | cons b' rest' =>
    obtain ⟨rfl, htail⟩ := List.cons.inj hbytes
    exact ⟨rest', sent, hcompletes, fun _ hm => hm, htail, hgap.of_cons, hgaps⟩
  | nil =>
    cases sent with
    | nil => cases hbytes
    | cons m sent' =>
      obtain ⟨v, hrun, hidle, -⟩ := runInstrs_frame_diagnostics (t := m.1) h.inv
        ((scanning_iff s).2 (.inl ((completes_nil_iff s).1 hcompletes))) (h.bound m List.mem_cons_self)
      obtain ⟨rest', hframe⟩ : ∃ rest', frameBytes m.1 m.2 = sync0 :: rest' := ⟨_, rfl⟩
      rw [gapsWithin, hframe] at hgaps
      rw [hframe] at hrun
      rw [framesOf, List.map_cons, List.flatten_cons, hframe] at hbytes
      obtain ⟨rfl, htail⟩ := List.cons.inj hbytes
      exact ⟨rest', sent', ⟨v, hrun, hidle⟩, fun _ hm => List.mem_cons_of_mem m hm, htail, hgaps.1, hgaps.2⟩

/-- On time, a byte leaves the rest on time: it restarts the timer. -/
theorem OnTime.byte {b : Byte} (h : OnTime period last rest sent s (e :: es)) (hinstr : e.instr = .feed b)
    (hexec : exec (.feed b) s = .next u) : ∃ rest' sent', OnTime period e.time rest' sent' u es := by
  obtain ⟨rest', sent', hcompletes, hsent, hbytes, hgap, hgaps⟩ := h.frame_of_byte hinstr
  obtain ⟨hafter, hspaced⟩ := List.pairwise_cons.1 h.spaced
  have hcfg := exec_keeps_cfg hexec
  have hidle : u.idleTicks = 0 := by
    obtain ⟨t, -, hexec', -, -, -, -, -, hidle, -⟩ := feedFrame b s
    cases hexec'.symm.trans hexec
    exact hidle
  exact ⟨rest', sent', {
    inv := exec_keeps_inv _ s u h.inv hexec
    bound := fun m hm => hcfg ▸ h.bound m (hsent m hm)
    noReset := fun f hf => h.noReset f (List.mem_cons_of_mem e hf)
    spaced := hspaced
    completes := (completes_cons_iff hexec).1 hcompletes
    bytes := hbytes
    gap := hcfg ▸ hgap
    gaps := hcfg ▸ hgaps
    timer := fun _ f hf _ => by
      obtain ⟨hle, -⟩ := hafter f hf
      simpa [hidle] using hle }⟩

/-- On time, a TICK mid-frame finds the timer below its bound: the next byte comes after it, and within the gap. -/
theorem OnTime.tick_below (h : OnTime period last rest sent s (e :: es)) (hinstr : e.instr = .tick)
    (hst : s.decState ≠ .awaitSync0) : s.idleTicks.toNat < s.cfg.timeoutTicks.toNat := by
  have hbytes := h.bytes
  have hgap := h.gap
  rw [fed_cons_of_not_feed (by rw [hinstr]; rfl)] at hbytes hgap
  cases rest with
  | nil => exact absurd ((completes_nil_iff s).1 h.completes) hst
  | cons b rest =>
    cases hnext : es.filterMap Event.fed with
    | nil => simp [hnext] at hbytes
    | cons x xs =>
      obtain ⟨f, hf, hfed⟩ := List.mem_filterMap.1 (hnext ▸ List.mem_cons_self : x ∈ es.filterMap Event.fed)
      obtain ⟨hfeed, htime⟩ := Event.fed_eq_some.1 hfed
      obtain ⟨hafter, -⟩ := List.pairwise_cons.1 h.spaced
      obtain ⟨-, -, hbefore⟩ := hafter f hf
      have hlate := hbefore hinstr _ hfeed
      have hwithin : x.1 ≤ last + s.cfg.timeoutTicks.toNat * period := by
        rw [hnext] at hgap
        exact (List.isChain_cons_cons.1 hgap).1
      have hcounted := h.timer hst e List.mem_cons_self hinstr
      have hperiods : s.idleTicks.toNat * period < s.cfg.timeoutTicks.toNat * period := by omega
      exact Nat.lt_of_mul_lt_mul_right hperiods

/-- On time, a command that is no FEED leaves the rest on time. -/
theorem OnTime.other (h : OnTime period last rest sent s (e :: es)) (hfeed : isFeed e.instr = false)
    (hexec : exec e.instr s = .next u) (hkept : u = { s with idleTicks := u.idleTicks, responses := u.responses })
    (hidle : u.idleTicks.toNat ≤ s.idleTicks.toNat + [e.instr].count .tick) :
    OnTime period last rest sent u es := by
  have hfed := fed_cons_of_not_feed hfeed es
  have hcfg := exec_keeps_cfg hexec
  have hst : u.decState = s.decState := by rw [hkept]
  obtain ⟨hafter, hspaced⟩ := List.pairwise_cons.1 h.spaced
  exact {
    inv := exec_keeps_inv _ s u h.inv hexec
    bound := hcfg ▸ h.bound
    noReset := fun f hf => h.noReset f (List.mem_cons_of_mem e hf)
    spaced := hspaced
    completes := hkept ▸ h.completes.untimed u.idleTicks u.responses
    bytes := hfed ▸ h.bytes
    gap := hcfg ▸ hfed ▸ h.gap
    gaps := hcfg ▸ hfed ▸ h.gaps
    timer := fun hmid f hf htick => by
      have hcounted := h.timer (hst ▸ hmid)
      by_cases hinstr : e.instr = .tick
      · have hnow := hcounted e List.mem_cons_self hinstr
        obtain ⟨-, hgap, -⟩ := hafter f hf
        have hperiod := hgap hinstr htick
        rw [hinstr, List.count_singleton_self] at hidle
        have hperiods : u.idleTicks.toNat * period ≤ (s.idleTicks.toNat + 1) * period := Nat.mul_le_mul_right _ hidle
        rw [Nat.succ_mul] at hperiods
        omega
      · rw [List.count_singleton, if_neg (by simpa using hinstr)] at hidle
        exact (Nat.add_le_add_left (Nat.mul_le_mul_right _ hidle) _).trans
          (hcounted f (List.mem_cons_of_mem e hf) htick) }

/-- A connection on time times nothing out. -/
theorem OnTime.run_untimed (h : OnTime period last rest sent s es) :
    ∃ (v : State) (rs : List Response), runInstrs (es.map Event.instr) s = .next v ∧
      v.responses = s.responses ++ rs ∧ ∀ c, Response.timedOut c ∉ rs := by
  induction es generalizing s last rest sent with
  | nil => exact ⟨s, [], rfl, (List.append_nil _).symm, fun _ => List.not_mem_nil⟩
  | cons e es ih =>
    obtain ⟨u, r, hexec, hr, hnot, last', rest', sent', hnext⟩ : ∃ (u : State) (r : Response),
        exec e.instr s = .next u ∧ u.responses = s.responses ++ [r] ∧ (∀ c, r ≠ .timedOut c) ∧
        ∃ last' rest' sent', OnTime period last' rest' sent' u es := by
      cases hfeed : isFeed e.instr with
      | true =>
        obtain ⟨b, hinstr⟩ := (isFeed_iff _).1 hfeed
        obtain ⟨u, r, hexec, hr, hkind, -⟩ := feedFrame b s
        refine ⟨u, r, hinstr ▸ hexec, hr, ?_, e.time, h.byte hinstr hexec⟩
        rcases hkind with rfl | ⟨m, p, rfl⟩ | ⟨c, rfl⟩ <;> nofun
      | false =>
        obtain ⟨u, r, hexec, hr, hnot, hkept, hidle⟩ :=
          exec_waits hfeed (h.noReset e List.mem_cons_self) fun hinstr => h.tick_below hinstr
        exact ⟨u, r, hexec, hr, hnot, last, rest, sent, h.other hfeed hexec hkept hidle⟩
    obtain ⟨v, rs, hrun, hrs, hnots⟩ := ih hnext
    refine ⟨v, r :: rs, (runInstrs_cons hexec _).trans hrun, ?_,
      fun c => List.not_mem_cons_of_ne_of_not_mem (hnot c).symm (hnots c)⟩
    rw [hrs, hr, List.append_assoc, List.singleton_append]

/-- A connection on time delivers every frame: its FEEDs answer what they answer alone. -/
theorem OnTime.run_delivers (h : OnTime period last [] sent s es) :
    ∃ (v : State) (rs : List Response), runInstrs (es.map Event.instr) s = .next v ∧
      v.responses = s.responses ++ rs ∧ feedResponses (es.map Event.instr) rs = deliveries sent ∧
      v.decState = .awaitSync0 ∧ diagnostics v = diagnostics s := by
  obtain ⟨v, rs, hrun, hrs, huntimed⟩ := h.run_untimed
  have hreset : ∀ i ∈ es.map Event.instr, i ≠ .reset := List.forall_mem_map.2 h.noReset
  obtain ⟨n, halone⟩ := runInstrs_feeds_alone hreset hrun hrs huntimed s.idleTicks s.responses
  obtain ⟨w, hframes, hidle, hdelivered, hdiag⟩ := runInstrs_frames h.inv ((completes_nil_iff s).1 h.completes) h.bound
  rw [← List.nil_append (framesOf sent), ← h.bytes, ← bytesFed_events] at hframes
  cases hframes.symm.trans halone
  exact ⟨v, rs, hrun, hrs, List.append_cancel_left hdelivered, hidle, hdiag⟩

end

/-- What a RESET leaves, whatever the state it found. -/
theorem exec_reset_leaves (s : State) :
    ∃ t : State, exec .reset s = .next t ∧ Inv t ∧ t.decState = .awaitSync0 ∧ t.cfg = s.cfg ∧
      t.responses = s.responses ++ [.ok] ∧ diagnostics t = (0, 0, .noCause) :=
  ⟨_, exec_reset_eq_resetWith s, inv_of_cleared (.inl rfl) rfl rfl rfl rfl rfl, rfl, rfl, rfl, rfl⟩

/-- Settles O53: after the RESET the rest of the connection is on time from an idle block. -/
theorem dutiesDeliverEveryFrame : Obligations.DutiesDeliverEveryFrame := by
  intro c s sent hduties hordered hcfg hreset hbound hreceived hgaps
  rw [Connection.keepsDuties_iff] at hduties
  obtain ⟨e, rest, hevents, he, hcommands⟩ := commands_of_resetAtStart (hduties .resetAtStart)
  have hfed : c.fed = rest.filterMap Event.fed := by
    rw [Connection.fed, hevents, fed_cons_of_not_feed (by rw [he]; rfl)]
  have hspaced := events_spaced hordered (hduties .tickEveryPeriod) (hduties .feedFirstOnTie)
  rw [hevents, List.pairwise_cons] at hspaced
  obtain ⟨t, hexec, hinv, hidle, hcfg', hresponses, hdiag⟩ := exec_reset_leaves s
  have hsame : t.cfg = c.cfg := hcfg'.trans hcfg
  have hontime : OnTime c.period 0 [] sent t rest := {
    inv := hinv
    bound := hsame ▸ hbound
    noReset := fun f hf => hreset f.instr (by
      rw [hcommands]
      exact List.mem_map_of_mem hf)
    spaced := hspaced.2
    completes := (completes_nil_iff t).2 hidle
    bytes := by
      rw [← hfed, fed_eq_received (hduties .oneFeeder) (hduties .arrivalOrder), hreceived]
      rfl
    gap := List.isChain_singleton _
    gaps := by rwa [hsame, ← hfed]
    timer := fun hmid => absurd hidle hmid }
  obtain ⟨u, rs, hrun, hrs, hdelivered, hidle', hdiag'⟩ := hontime.run_delivers
  rw [hdiag] at hdiag'
  refine ⟨u, ?_, ?_, hidle', congrArg (·.1) hdiag', congrArg (·.2.1) hdiag', congrArg (·.2.2) hdiag'⟩
  · rw [hcommands, runInstrs_cons hexec, hrun]
  · rw [newResponses_eq (rs := .ok :: rs) (by rw [hrs, hresponses, List.append_assoc]; rfl), hcommands]
    exact hdelivered

end Sys2Proof.Machine
end
